-- ==== Sys2Proof/Word.lean ====
section
/-! DEFINITION. The word types of CORE: the byte of `IN` and `OUT` (R12) and the 24-bit token word of `TOK` (R85). -/

namespace Sys2Proof

/-- An element of `IN` and `OUT`: a natural in `0 .. 255` (R12). -/
abbrev Byte := BitVec 8

/-- An element of `TOK`: the 24-bit token word (R85, D8). -/
abbrev TokenWord := BitVec 24

end Sys2Proof
end

