-- ==== Sys2Proof/Config.lean ====
section
/-! DEFINITION. What one implementation of CORE fixes: the constants of R6 and R7, the open parameters `HASH` and
`N_MAX` (D2, D3), and the free values the spec leaves open. An `opaque` constant has no body: a claim about it is a
claim about every implementation. -/

namespace Sys2Proof.Config

/-- `MIN_MATCH` (R6). -/
def minMatch : Nat := 3
/-- `MAX_MATCH` (R6). -/
def maxMatch : Nat := 258
/-- `WINDOW` (R6). -/
def window : Nat := 32768
/-- `MAX_CHAIN` (R6): candidates examined per search, the head of the chain counting as the first (R110, D4). -/
def maxChain : Nat := 128
/-- `PACK_NMAX` (R7, D9). -/
def packNMax : Nat := 16

/-- `N_MAX`, the greatest input size in bytes that CORE accepts: an OPEN parameter (R7, D2; log 1). -/
opaque nMax : Nat

/-- `HASH`, a total function of three bytes with a 15-bit result: an OPEN parameter (R7, R102, D3; log 2). -/
opaque hash : Byte → Byte → Byte → BitVec 15

/-- The parameters of an instance of CORE. The units take them as an argument, so that a claim can be made, and a
worked example of the spec run, for parameters of one's own. -/
structure Params where
  nMax : Nat
  hash : Byte → Byte → Byte → BitVec 15

/-- The parameters the machine runs with. -/
def params : Params := { nMax := nMax, hash := hash }

/-- The default `HASH` of D3, which the spec's worked examples use: nothing in the machine uses it. -/
def defaultHash (b0 b1 b2 : Byte) : BitVec 15 :=
  BitVec.ofNat 15 ((b0.toNat <<< 10) ^^^ (b1.toNat <<< 5) ^^^ b2.toNat)

/-- `POS_W`, the least width with `N_MAX < 2^POS_W - 1` (R7, D2). -/
def posW (P : Params) : Nat := Nat.log2 (P.nMax + 1) + 1

/-- Capacity of `OUT` in bytes: `ceil((10 + 9 * N_MAX) / 8)` (R7, D12). -/
def outCapacity (P : Params) : Nat := (10 + 9 * P.nMax + 7) / 8

/-- Capacity of `TOK` in tokens (R7, D8). -/
def tokCapacity (P : Params) : Nat := P.nMax

/-! Free values: what an unspecified register holds after `RESET` and at `START` (R45, U7; log 6), each applied to the
counter `free` of State, and what a host read with no stated value returns (R165, U6; log 9). -/

opaque freeH : Nat → BitVec 15
opaque freeM : Nat → Option Nat
opaque freeChain : Nat → BitVec 8
opaque freeCap : Nat → BitVec 9
opaque freeK : Nat → BitVec 9
opaque freeD : Nat → Int
opaque freeBestLen : Nat → BitVec 9
opaque freeBestDist : Nat → BitVec 16
/-- What a write of `IN_SIZE` wider than the register leaves in it, applied to the counter `free`; the register's width
limits it where it is used (log 10). -/
opaque freeSize : Nat → Nat
/-- What a host read with no stated value returns, applied to the state of CORE and the location read: arbitrary but
fixed, so that a repeated read returns it again (R66, U6; log 9). The port's width limits it where it is used. -/
opaque freeRead {core location : Type} : core → location → Nat

end Sys2Proof.Config
end

