-- ==== Sys2Proof/Syntax.lean ====
section
/-! DEFINITION. The instructions of CORE: one constructor for each row of spec/opcode_table.json (R90), and the abstract
Token of R36. An extra field carries its bits; a literal carries its byte; a token word carries its two fields. -/

namespace Sys2Proof

/-- The things CORE has an encoding for: 63 stream elements (R72 to R82), two token words (R85) and two host
commands (R91). -/
inductive Instr where
  /-- `HDR`: `BFINAL = 1`, `BTYPE = 1` (R73). -/
  | hdr
  /-- `LIT8`: a literal byte `0 .. 143` (R76). -/
  | lit8 (b : Byte)
  /-- `LIT9`: a literal byte `144 .. 255` (R77). -/
  | lit9 (b : Byte)
  /-- `EOB`: symbol 256 (R78). -/
  | eob
  /-- `LEN257`: length 3 (R79, R124). -/
  | len257
  /-- `LEN258`: length 4 (R79, R124). -/
  | len258
  /-- `LEN259`: length 5 (R79, R124). -/
  | len259
  /-- `LEN260`: length 6 (R79, R124). -/
  | len260
  /-- `LEN261`: length 7 (R79, R124). -/
  | len261
  /-- `LEN262`: length 8 (R79, R124). -/
  | len262
  /-- `LEN263`: length 9 (R79, R124). -/
  | len263
  /-- `LEN264`: length 10 (R79, R124). -/
  | len264
  /-- `LEN265`: lengths 11 to 12 (R79, R124). -/
  | len265 (e : BitVec 1)
  /-- `LEN266`: lengths 13 to 14 (R79, R124). -/
  | len266 (e : BitVec 1)
  /-- `LEN267`: lengths 15 to 16 (R79, R124). -/
  | len267 (e : BitVec 1)
  /-- `LEN268`: lengths 17 to 18 (R79, R124). -/
  | len268 (e : BitVec 1)
  /-- `LEN269`: lengths 19 to 22 (R79, R124). -/
  | len269 (e : BitVec 2)
  /-- `LEN270`: lengths 23 to 26 (R79, R124). -/
  | len270 (e : BitVec 2)
  /-- `LEN271`: lengths 27 to 30 (R79, R124). -/
  | len271 (e : BitVec 2)
  /-- `LEN272`: lengths 31 to 34 (R79, R124). -/
  | len272 (e : BitVec 2)
  /-- `LEN273`: lengths 35 to 42 (R79, R124). -/
  | len273 (e : BitVec 3)
  /-- `LEN274`: lengths 43 to 50 (R79, R124). -/
  | len274 (e : BitVec 3)
  /-- `LEN275`: lengths 51 to 58 (R79, R124). -/
  | len275 (e : BitVec 3)
  /-- `LEN276`: lengths 59 to 66 (R79, R124). -/
  | len276 (e : BitVec 3)
  /-- `LEN277`: lengths 67 to 82 (R79, R124). -/
  | len277 (e : BitVec 4)
  /-- `LEN278`: lengths 83 to 98 (R79, R124). -/
  | len278 (e : BitVec 4)
  /-- `LEN279`: lengths 99 to 114 (R79, R124). -/
  | len279 (e : BitVec 4)
  /-- `LEN280`: lengths 115 to 130 (R79, R124). -/
  | len280 (e : BitVec 4)
  /-- `LEN281`: lengths 131 to 162 (R79, R124). -/
  | len281 (e : BitVec 5)
  /-- `LEN282`: lengths 163 to 194 (R79, R124). -/
  | len282 (e : BitVec 5)
  /-- `LEN283`: lengths 195 to 226 (R79, R124). -/
  | len283 (e : BitVec 5)
  /-- `LEN284`: lengths 227 to 257 (R79, R124). -/
  | len284 (e : BitVec 5)
  /-- `LEN285`: length 258 (R79, R124). -/
  | len285
  /-- `DIST0`: distance 1 (R81, R125). -/
  | dist0
  /-- `DIST1`: distance 2 (R81, R125). -/
  | dist1
  /-- `DIST2`: distance 3 (R81, R125). -/
  | dist2
  /-- `DIST3`: distance 4 (R81, R125). -/
  | dist3
  /-- `DIST4`: distances 5 to 6 (R81, R125). -/
  | dist4 (e : BitVec 1)
  /-- `DIST5`: distances 7 to 8 (R81, R125). -/
  | dist5 (e : BitVec 1)
  /-- `DIST6`: distances 9 to 12 (R81, R125). -/
  | dist6 (e : BitVec 2)
  /-- `DIST7`: distances 13 to 16 (R81, R125). -/
  | dist7 (e : BitVec 2)
  /-- `DIST8`: distances 17 to 24 (R81, R125). -/
  | dist8 (e : BitVec 3)
  /-- `DIST9`: distances 25 to 32 (R81, R125). -/
  | dist9 (e : BitVec 3)
  /-- `DIST10`: distances 33 to 48 (R81, R125). -/
  | dist10 (e : BitVec 4)
  /-- `DIST11`: distances 49 to 64 (R81, R125). -/
  | dist11 (e : BitVec 4)
  /-- `DIST12`: distances 65 to 96 (R81, R125). -/
  | dist12 (e : BitVec 5)
  /-- `DIST13`: distances 97 to 128 (R81, R125). -/
  | dist13 (e : BitVec 5)
  /-- `DIST14`: distances 129 to 192 (R81, R125). -/
  | dist14 (e : BitVec 6)
  /-- `DIST15`: distances 193 to 256 (R81, R125). -/
  | dist15 (e : BitVec 6)
  /-- `DIST16`: distances 257 to 384 (R81, R125). -/
  | dist16 (e : BitVec 7)
  /-- `DIST17`: distances 385 to 512 (R81, R125). -/
  | dist17 (e : BitVec 7)
  /-- `DIST18`: distances 513 to 768 (R81, R125). -/
  | dist18 (e : BitVec 8)
  /-- `DIST19`: distances 769 to 1024 (R81, R125). -/
  | dist19 (e : BitVec 8)
  /-- `DIST20`: distances 1025 to 1536 (R81, R125). -/
  | dist20 (e : BitVec 9)
  /-- `DIST21`: distances 1537 to 2048 (R81, R125). -/
  | dist21 (e : BitVec 9)
  /-- `DIST22`: distances 2049 to 3072 (R81, R125). -/
  | dist22 (e : BitVec 10)
  /-- `DIST23`: distances 3073 to 4096 (R81, R125). -/
  | dist23 (e : BitVec 10)
  /-- `DIST24`: distances 4097 to 6144 (R81, R125). -/
  | dist24 (e : BitVec 11)
  /-- `DIST25`: distances 6145 to 8192 (R81, R125). -/
  | dist25 (e : BitVec 11)
  /-- `DIST26`: distances 8193 to 12288 (R81, R125). -/
  | dist26 (e : BitVec 12)
  /-- `DIST27`: distances 12289 to 16384 (R81, R125). -/
  | dist27 (e : BitVec 12)
  /-- `DIST28`: distances 16385 to 24576 (R81, R125). -/
  | dist28 (e : BitVec 13)
  /-- `DIST29`: distances 24577 to 32768 (R81, R125). -/
  | dist29 (e : BitVec 13)
  /-- `TOK_LIT`: the token word of `Literal(b)` (R85). -/
  | tokLit (b : Byte)
  /-- `TOK_MATCH`: the token word of `Match(l + 3, d + 1)` (R85). -/
  | tokMatch (l : BitVec 8) (d : BitVec 15)
  /-- `START`: a write of `CTRL` with bit 0 set and bit 1 clear (R91, R164). -/
  | start
  /-- `RESET`: a write of `CTRL` with bit 1 set (R91, R166). -/
  | reset
  deriving DecidableEq, Repr

/-- What a row of the table is, with its operand: the length rows by code, the distance rows by symbol, each with its
count of extra bits and its extra value. -/
inductive Shape where
  | header
  | literal8 (b : Byte)
  | literal9 (b : Byte)
  | endOfBlock
  | length (code extraBits extra : Nat)
  | distance (symbol extraBits extra : Nat)
  | tokenLit (b : Byte)
  | tokenMatch (l : BitVec 8) (d : BitVec 15)
  | start
  | reset
  deriving DecidableEq, Repr

/-- The row of an instruction. -/
def Instr.shape : Instr → Shape
  | .hdr => .header
  | .lit8 b => .literal8 b
  | .lit9 b => .literal9 b
  | .eob => .endOfBlock
  | .len257 => .length 257 0 0
  | .len258 => .length 258 0 0
  | .len259 => .length 259 0 0
  | .len260 => .length 260 0 0
  | .len261 => .length 261 0 0
  | .len262 => .length 262 0 0
  | .len263 => .length 263 0 0
  | .len264 => .length 264 0 0
  | .len265 e => .length 265 1 e.toNat
  | .len266 e => .length 266 1 e.toNat
  | .len267 e => .length 267 1 e.toNat
  | .len268 e => .length 268 1 e.toNat
  | .len269 e => .length 269 2 e.toNat
  | .len270 e => .length 270 2 e.toNat
  | .len271 e => .length 271 2 e.toNat
  | .len272 e => .length 272 2 e.toNat
  | .len273 e => .length 273 3 e.toNat
  | .len274 e => .length 274 3 e.toNat
  | .len275 e => .length 275 3 e.toNat
  | .len276 e => .length 276 3 e.toNat
  | .len277 e => .length 277 4 e.toNat
  | .len278 e => .length 278 4 e.toNat
  | .len279 e => .length 279 4 e.toNat
  | .len280 e => .length 280 4 e.toNat
  | .len281 e => .length 281 5 e.toNat
  | .len282 e => .length 282 5 e.toNat
  | .len283 e => .length 283 5 e.toNat
  | .len284 e => .length 284 5 e.toNat
  | .len285 => .length 285 0 0
  | .dist0 => .distance 0 0 0
  | .dist1 => .distance 1 0 0
  | .dist2 => .distance 2 0 0
  | .dist3 => .distance 3 0 0
  | .dist4 e => .distance 4 1 e.toNat
  | .dist5 e => .distance 5 1 e.toNat
  | .dist6 e => .distance 6 2 e.toNat
  | .dist7 e => .distance 7 2 e.toNat
  | .dist8 e => .distance 8 3 e.toNat
  | .dist9 e => .distance 9 3 e.toNat
  | .dist10 e => .distance 10 4 e.toNat
  | .dist11 e => .distance 11 4 e.toNat
  | .dist12 e => .distance 12 5 e.toNat
  | .dist13 e => .distance 13 5 e.toNat
  | .dist14 e => .distance 14 6 e.toNat
  | .dist15 e => .distance 15 6 e.toNat
  | .dist16 e => .distance 16 7 e.toNat
  | .dist17 e => .distance 17 7 e.toNat
  | .dist18 e => .distance 18 8 e.toNat
  | .dist19 e => .distance 19 8 e.toNat
  | .dist20 e => .distance 20 9 e.toNat
  | .dist21 e => .distance 21 9 e.toNat
  | .dist22 e => .distance 22 10 e.toNat
  | .dist23 e => .distance 23 10 e.toNat
  | .dist24 e => .distance 24 11 e.toNat
  | .dist25 e => .distance 25 11 e.toNat
  | .dist26 e => .distance 26 12 e.toNat
  | .dist27 e => .distance 27 12 e.toNat
  | .dist28 e => .distance 28 13 e.toNat
  | .dist29 e => .distance 29 13 e.toNat
  | .tokLit b => .tokenLit b
  | .tokMatch l d => .tokenMatch l d
  | .start => .start
  | .reset => .reset

/-- A Token (R36): `Literal(b)` or `Match(len, dist)`. -/
inductive Token where
  | literal (b : Byte)
  | backRef (len dist : Nat)
  deriving DecidableEq, Repr

/-- The static part of the Token invariant (R36, R85). -/
def Token.legal : Token → Bool
  | .literal _ => true
  | .backRef len dist => decide (3 ≤ len ∧ len ≤ 258 ∧ 1 ≤ dist ∧ dist ≤ 32768)

end Sys2Proof
end

