-- ==== Sys2Proof/Machine/State.lean ====
section
/-! DEFINITION. The state of CORE (R20), plain data: the host registers, the sequencing registers, the matcher
registers, the hash-chain tables, the buffers, the bit writer; beside them the model's own fields (the host's pending
transactions, the value of its last read, the encoder's position inside a match, the counter of free values). -/

namespace Sys2Proof.Machine

/-- `PHASE` (R29, R161). -/
inductive Phase where
  | idle
  | matching
  | encoding
  | done
  | error
  deriving DecidableEq, Repr

/-- `enc_stage`: which of the four stages of the encoder's sequence is next (R41, R140). -/
inductive EncStage where
  | hdr
  | tokens
  | eob
  | flush
  deriving DecidableEq, Repr

/-- The causes `ERR` records (R27, R181). -/
inductive ErrCode where
  | eNone
  | eSize
  | eCapacity
  | eMisuse
  deriving DecidableEq, Repr

/-- The read/write memory spaces (R50). -/
inductive Space where
  | input
  | head
  | prev
  | tok
  | out
  deriving DecidableEq, Repr

/-- A memory space: its entries that hold something, by rising index (R50). An index that is not listed holds no
value; in `HEAD` it reads as `NONE` (R30). -/
abbrev Memory (α : Type) := List (Nat × α)

/-- The matcher's working registers, unspecified between steps (R28, R45). -/
structure Scratch where
  /-- hash of the 3 bytes at `p`, or at the position being inserted -/
  h : BitVec 15
  /-- current candidate, `none` for `NONE` -/
  m : Option Nat
  /-- candidates examined so far in this search -/
  chain : BitVec 8
  /-- `min(258, size - p)` -/
  cap : BitVec 9
  /-- common-prefix length of the current candidate -/
  k : BitVec 9
  /-- distance of the current candidate -/
  d : Int
  bestLen : BitVec 9
  bestDist : BitVec 16
  deriving DecidableEq, Repr

/-- One transaction from outside CORE: the host's reads and writes (R22, R163 to R166; write data are naturals), or one
element driven at the encoder unit on its own (log 4). -/
inductive Request where
  | writeCtrl (v : Nat)
  | writeStatus (v : Nat)
  | writeInSize (v : Nat)
  | writeOutSize (v : Nat)
  | writeErr (v : Nat)
  | writeIn (i : Nat) (b : Byte)
  | readCtrl
  | readStatus
  | readInSize
  | readOutSize
  | readErr
  | readOut (i : Nat)
  | drive (bits : List Bool)
  deriving DecidableEq, Repr

/-- A transaction that lands after `wait` further steps of CORE (log 3). -/
structure Pending where
  wait : Nat
  req : Request
  deriving DecidableEq, Repr

/-- The state of CORE (R20). -/
structure State where
  /-- `PHASE`, which `STATUS` mirrors (R24, R29) -/
  phase : Phase
  /-- `IN_SIZE` (R25) -/
  inSize : Nat
  /-- `ERR` (R27) -/
  err : ErrCode
  /-- `size` (R28) -/
  size : Nat
  /-- `p` (R28) -/
  p : Nat
  /-- `ntok` (R28) -/
  ntok : Nat
  /-- `h`, `m`, `chain`, `cap`, `k`, `d`, `best_len`, `best_dist` (R28) -/
  scratch : Scratch
  /-- `HEAD` (R30); an unlisted entry is `NONE` -/
  head : Memory Nat
  /-- `PREV` (R31); `none` is `NONE`, an unlisted entry holds no value -/
  prev : Memory (Option Nat)
  /-- `IN` (R33) -/
  input : List Host.Cell
  /-- `TOK` (R34, R85) -/
  tok : Memory TokenWord
  /-- `OUT` (R35) -/
  out : List Host.Cell
  /-- `acc` (R38) -/
  acc : BitVec 32
  /-- `nbits` (R38) -/
  nbits : Nat
  /-- `flushed` (R38) -/
  flushed : Bool
  /-- `out_len`, which `OUT_SIZE` mirrors (R26, R38) -/
  outLen : Nat
  /-- `tk` (R41) -/
  tk : Nat
  /-- `enc_stage` (R41) -/
  encStage : EncStage
  /-- the model's own: a length element is written and its distance element is next (R72; log 4) -/
  distDue : Bool
  /-- the model's own: the transactions from outside, oldest first (log 3) -/
  inbox : List Pending
  /-- the model's own: the value the last host read returned (log 9) -/
  rdata : Option Nat
  /-- the model's own: the counter that free values are applied to (log 6) -/
  free : Nat
  deriving DecidableEq, Repr

/-- Why the machine is stuck: a state the spec excludes and gives no effect. All are safe. -/
inductive Fault where
  /-- An index outside a space, raised by the matcher's and the host's accesses ("it should fault, not wrap", R58). -/
  | outOfRange (sp : Space)
  /-- A read of an entry that holds no value, raised by the matcher's and the encoder's reads (R45). -/
  | noValue (sp : Space)
  /-- A token word that is not the image of a legal token, raised by the encoder's fetch (R87, U4). -/
  | illegalToken
  /-- `MATCH` with `p > size`, raised by the controller (R162 gives it no transition). -/
  | cursorPastEnd
  deriving DecidableEq, Repr

/-- Why an instruction is not executed. All are safe. -/
inductive Refusal where
  /-- The instruction has no meaning in this model; raised by exec. -/
  | notModelled (mnemonic : String)
  /-- The operation is not enabled in this phase, stage or position; raised by the encoder's operations (R140, R72). -/
  | notEnabled
  /-- An operand outside the element's range; raised by `LIT8`, `LIT9`, `LEN284` (R76, R77, R87). -/
  | illFormed
  /-- A lookup outside its operand range; raised by `ENC_MATCH`, for no operand a token word can hold (U3). -/
  | lookupDomain
  /-- Driven bits that are no element, or more than one; raised by the fetch (R87). -/
  | noElement
  /-- A host write of `IN` during a run; raised by the host port (U5: "*refuse* in the model"). -/
  | hostWriteDuringRun
  deriving DecidableEq, Repr

/-- The three outcomes of a step. -/
abbrev Result := Host.Outcome State Fault Refusal

/-- The state after hardware reset (R45, R200). The registers of `scratch` are unspecified there: their values are the
model's choice (log 5). -/
def State.reset : State where
  phase := .idle
  inSize := 0
  err := .eNone
  size := 0
  p := 0
  ntok := 0
  scratch := { h := 0, m := none, chain := 0, cap := 0, k := 0, d := 0, bestLen := 0, bestDist := 0 }
  head := []
  prev := []
  input := []
  tok := []
  out := []
  acc := 0
  nbits := 0
  flushed := false
  outLen := 0
  tk := 0
  encStage := .hdr
  distDue := false
  inbox := []
  rdata := none
  free := 0

end Sys2Proof.Machine
end

