-- ==== Sys2Proof/Machine/Flags.lean ====
section
/-! DEFINITION. The bits of `STATUS` and `ERR`. CORE has no condition code, carry or overflow flag, and no operation
sets a flag as a side effect of arithmetic (R42): beside these two codes its only single-bit state is `flushed`, which
`FLUSH` sets (R135). -/

namespace Sys2Proof.Machine

/-- The 3-bit code `STATUS` reads (R24, R91). -/
def Phase.code : Phase → BitVec 3
  | .idle => 0
  | .matching => 1
  | .encoding => 2
  | .done => 3
  | .error => 4

/-- The 2-bit code `ERR` reads (R27, R91, R181). -/
def ErrCode.code : ErrCode → BitVec 2
  | .eNone => 0
  | .eSize => 1
  | .eCapacity => 2
  | .eMisuse => 3

/-- Whether a run is in progress: `PHASE` is `MATCH` or `ENCODE` (R208). -/
def Phase.running : Phase → Bool
  | .matching => true
  | .encoding => true
  | _ => false

end Sys2Proof.Machine
end

