-- ==== Sys2Proof/Machine/Bits.lean ====
section
/-! DEFINITION. Bits of a value and of the stream (R9 to R11, R61, R156): bit lists stand in stream order, the bit
written first at the head. -/

namespace Sys2Proof

/-- The `n` low bits of `v`, least significant first: `lsb_first(v, n)` of R156. -/
def lsbBits (n v : Nat) : List Bool := (List.range n).map fun k => v.testBit k

/-- The `n` low bits of `v`, most significant first: `msb_first(v, n)` of R156, the order of a Huffman code (R75). -/
def msbBits (n v : Nat) : List Bool := (List.range n).map fun k => v.testBit (n - 1 - k)

/-- The number whose bits, least significant first, are the list (`getfield` of R88). -/
def natOfLsb : List Bool → Nat
  | [] => 0
  | b :: bs => b.toNat + 2 * natOfLsb bs

/-- `c` extended by the bits of the list, most significant first (`getcode` of R88 started from `c`). -/
def natOfMsbFrom (c : Nat) : List Bool → Nat
  | [] => c
  | b :: bs => natOfMsbFrom (2 * c + b.toNat) bs

/-- The number whose bits, most significant first, are the list (`getcode` of R88). -/
def natOfMsb (bs : List Bool) : Nat := natOfMsbFrom 0 bs

/-- `rev_n(v)`: bit `j` of the result is bit `n - 1 - j` of `v` (R10). -/
def rev (n v : Nat) : Nat := natOfLsb (msbBits n v)

/-- The first `n` bits and the rest, or none where fewer than `n` bits are left. -/
def takeBits : Nat → List Bool → Option (List Bool × List Bool)
  | 0, bs => some ([], bs)
  | _ + 1, [] => none
  | n + 1, b :: bs => (takeBits n bs).map fun r => (b :: r.1, r.2)

/-- The stream bits of a byte: stream bit `s` is bit `s mod 8` of its byte (R11, R60). -/
def byteBits (b : Byte) : List Bool := lsbBits 8 b.toNat

/-- The stream bits of a byte sequence (R11). -/
def bitsOfBytes (bs : List Byte) : List Bool := bs.flatMap byteBits

/-- The zero bits that `FLUSH` completes the last byte with, after `n` stream bits (R83). -/
def padBits (n : Nat) : List Bool := List.replicate ((8 - n % 8) % 8) false

end Sys2Proof
end

