-- ==== Sys2Proof/Machine/CodeTables.lean ====
section
/-! DEFINITION. The four code-table ROMs (R40, R120, R121) and the two range lookups over them (R122, R123). A lookup
outside its operand range answers none (U3: the lookups are partial functions). -/

namespace Sys2Proof

/-- `LEN_BASE` (R120). -/
def lenBase : List Nat :=
  [3, 4, 5, 6, 7, 8, 9, 10, 11, 13, 15, 17, 19, 23, 27, 31, 35, 43, 51, 59, 67, 83, 99, 115, 131, 163, 195, 227, 258]

/-- `LEN_EXTRA` (R120). -/
def lenExtra : List Nat :=
  [0, 0, 0, 0, 0, 0, 0, 0, 1, 1, 1, 1, 2, 2, 2, 2, 3, 3, 3, 3, 4, 4, 4, 4, 5, 5, 5, 5, 0]

/-- `DIST_BASE` (R121). -/
def distBase : List Nat :=
  [1, 2, 3, 4, 5, 7, 9, 13, 17, 25, 33, 49, 65, 97, 129, 193, 257, 385, 513, 769] ++
  [1025, 1537, 2049, 3073, 4097, 6145, 8193, 12289, 16385, 24577]

/-- `DIST_EXTRA` (R121). -/
def distExtra : List Nat :=
  [0, 0, 0, 0, 1, 1, 2, 2, 3, 3, 4, 4, 5, 5, 6, 6, 7, 7, 8, 8, 9, 9, 10, 10, 11, 11, 12, 12, 13, 13]

/-- The count of extra bits of length code `code` (257 to 285). -/
def lenExtraOf (code : Nat) : Nat := lenExtra.getD (code - 257) 0

/-- The count of extra bits of distance symbol `symbol` (0 to 29). -/
def distExtraOf (symbol : Nat) : Nat := distExtra.getD symbol 0

/-- The least length of length code `code`. -/
def lenBaseOf (code : Nat) : Nat := lenBase.getD (code - 257) 0

/-- The least distance of distance symbol `symbol`. -/
def distBaseOf (symbol : Nat) : Nat := distBase.getD symbol 0

/-- Whether entry `i` of `base` covers `v`: `base[i] <= v` and `i` is the last index or `v < base[i+1]` (R122). -/
def coversAt (base : List Nat) (v i : Nat) : Bool :=
  decide (base.getD i 0 ≤ v) && (i + 1 == base.length || decide (v < base.getD (i + 1) 0))

/-- The index that covers `v` (R122). -/
def rangeIndex (base : List Nat) (v : Nat) : Option Nat :=
  (List.range base.length).find? (coversAt base v)

/-- `LEN_LOOKUP(len)`: `(len_code, len_extra_bits, len_extra_value)` (R122). -/
def lenLookup (len : Nat) : Option (Nat × Nat × Nat) :=
  if 3 ≤ len ∧ len ≤ 258 then
    (rangeIndex lenBase len).map fun i => (257 + i, lenExtra.getD i 0, len - lenBase.getD i 0)
  else none

/-- `DIST_LOOKUP(dist)`: `(dist_code, dist_extra_bits, dist_extra_value)` (R123). -/
def distLookup (dist : Nat) : Option (Nat × Nat × Nat) :=
  if 1 ≤ dist ∧ dist ≤ 32768 then
    (rangeIndex distBase dist).map fun j => (j, distExtra.getD j 0, dist - distBase.getD j 0)
  else none

end Sys2Proof
end

