-- ==== Sys2Proof/Machine/Operands.lean ====
section
/-! DEFINITION. How operands are assembled (R86): the Huffman codes of the literal/length and the distance alphabet
with their lengths (R74, R81), the bytes a token covers, the fields of a token word. Every field is unsigned; nothing is
sign-extended, scaled or shifted. -/

namespace Sys2Proof.Machine

/-- The 8-bit code of a literal byte `0 .. 143` (R74, R143). -/
def literalCode8 (b : Byte) : Nat := 0x30 + b.toNat

/-- The 9-bit code of a literal byte `144 .. 255` (R74, R144). -/
def literalCode9 (b : Byte) : Nat := 0x190 + (b.toNat - 144)

/-- The code of a length symbol and its count of bits (R74, R146). -/
def lengthCode (code : Nat) : Nat × Nat :=
  if code ≤ 279 then (code - 256, 7) else (0xC0 + (code - 280), 8)

/-- The length field of a token word, read back (R85). -/
def tokenLength (l : BitVec 8) : Nat := l.toNat + 3

/-- The distance field of a token word, read back (R85). -/
def tokenDistance (d : BitVec 15) : Nat := d.toNat + 1

/-- How many input positions a token covers (R107). -/
def covers : Token → Nat
  | .literal _ => 1
  | .backRef len _ => len

end Sys2Proof.Machine
end

