-- ==== Sys2Proof/Machine/Ops.lean ====
section
/-! DEFINITION. The named operations over memory spaces and registers; `raise`, the one way a fault is taken (R186), and
the return from it, which is `RESET` alone (R188); the flow of an operation that may raise. -/

namespace Sys2Proof.Machine

/-! Memory spaces. -/

/-- What the space holds at index `a`: none where it holds nothing. -/
def Memory.read {α : Type} : Memory α → Nat → Option α
  | [], _ => none
  | (b, w) :: m, a => if b = a then some w else Memory.read m a

/-- `S[a] <- v` (R13, R66), keeping the canonical form. -/
def Memory.write {α : Type} : Memory α → Nat → α → Memory α
  | [], a, v => [(a, v)]
  | (b, w) :: m, a, v =>
    if a < b then (a, v) :: (b, w) :: m
    else if a = b then (a, v) :: m
    else (b, w) :: Memory.write m a v

/-- The canonical form: indices strictly rising. Every listed entry differs from what an unlisted index reads as, since
no operation writes "no value", nor `NONE` into `HEAD`. -/
def Memory.wf {α : Type} : Memory α → Bool
  | [] => true
  | [_] => true
  | (a, _) :: (b, w) :: m => decide (a < b) && Memory.wf ((b, w) :: m)

/-- A read of `IN` by the matcher: defined below `size` (R51, R58). -/
def readIn (s : State) (i : Nat) : Except Fault Byte :=
  if i < s.size then
    match Memory.read s.input i with
    | some b => .ok b
    | none => .error (.noValue .input)
  else .error (.outOfRange .input)

/-- A read of `HEAD` (R52): an unlisted entry is `NONE`. -/
def readHead (s : State) (h : BitVec 15) : Option Nat := Memory.read s.head h.toNat

/-- A read of `PREV` (R53). -/
def readPrev (P : Config.Params) (s : State) (q : Nat) : Except Fault (Option Nat) :=
  if q < P.nMax then
    match Memory.read s.prev q with
    | some v => .ok v
    | none => .error (.noValue .prev)
  else .error (.outOfRange .prev)

/-- A read of `TOK` by the encoder (R54, R209). -/
def readTok (s : State) (i : Nat) : Except Fault TokenWord :=
  match Memory.read s.tok i with
  | some w => .ok w
  | none => .error (.noValue .tok)

/-- Whether `OUT` has room for `n` bytes in all: `n <= ceil((10 + 9 * N_MAX) / 8)` (R7, R181), written without a
division. -/
def outRoom (P : Config.Params) (n : Nat) : Bool := decide (8 * n < 9 * P.nMax + 18)

/-- The bytes of `OUT[0 .. out_len)`: the result of a run in `DONE` (R161, R165). -/
def State.outBytes (s : State) : List Byte :=
  (List.range s.outLen).map fun i => (Memory.read s.out i).getD 0

/-- The stream bits written so far: `OUT`, then the pending bits of `acc`, oldest first (R39, R130). -/
def State.stream (s : State) : List Bool := bitsOfBytes s.outBytes ++ lsbBits s.nbits s.acc.toNat

/-! Faults (R186, R188). -/

/-- `raise <Fault>()`: `ERR` takes the code, `PHASE` becomes `ERROR`, and nothing else changes; no pc is saved and
control goes nowhere (R186). -/
def State.raise (s : State) (e : ErrCode) : State := { s with err := e, phase := .error }

/-- The registers the spec leaves unspecified, as free values (R45, U7; log 6). -/
def freeScratch (n : Nat) : Scratch where
  h := Config.freeH n
  m := Config.freeM n
  chain := Config.freeChain n
  cap := Config.freeCap n
  k := Config.freeK n
  d := Config.freeD n
  bestLen := Config.freeBestLen n
  bestDist := Config.freeBestDist n

/-- The reset state of R45, the one way out of `ERROR` (R166, R188). What R45 leaves unspecified holds no value (`IN`,
`PREV`, `TOK`, `OUT`) or a free one (the working registers); the model's own `inbox` and `rdata` are the host's. -/
def State.resetCore (s : State) : State :=
  { State.reset with
    scratch := freeScratch s.free
    free := s.free + 1
    inbox := s.inbox
    rdata := s.rdata }

/-! Operations that may raise. -/

/-- An operation's end: it went on, or a fault was raised and every unit stops (R186). -/
inductive Flow where
  | running (s : State)
  | stopped (s : State)
  deriving DecidableEq, Repr

/-- The state at the end. -/
def Flow.state : Flow → State
  | .running s => s
  | .stopped s => s

/-- The next operation, if nothing was raised. -/
def Flow.andThen (f : Flow) (g : State → Flow) : Flow :=
  match f with
  | .running s => g s
  | .stopped s => .stopped s

end Sys2Proof.Machine
end

