-- ==== Sys2Proof/Machine/BitWriter.lean ====
section
/-! DEFINITION. The bit writer: `PACK` (R132), `PACK_CODE` (R142) and `FLUSH` (R135). -/

namespace Sys2Proof.Machine

/-- One round of the loop of `PACK`: the low byte goes to `OUT`, the accumulator is shifted down (R132). -/
def emitByte (s : State) : State :=
  { s with
    out := Memory.write s.out s.outLen (s.acc.extractLsb' 0 8)
    outLen := s.outLen + 1
    acc := s.acc >>> 8
    nbits := s.nbits - 8 }

/-- The loop of `PACK`, which runs `nbits div 8` times. -/
def drain : Nat → State → State
  | 0, s => s
  | r + 1, s => drain r (emitByte s)

/-- The effect of `PACK(v, n)` when it raises nothing (R132). -/
def appendField (v n : Nat) (s : State) : State :=
  drain ((s.nbits + n) / 8)
    { s with acc := s.acc ||| (BitVec.ofNat 32 v <<< s.nbits), nbits := s.nbits + n }

/-- The fault `PACK(v, n)` raises, in the order of its checks: `flushed`, `n > 16`, `v >= 2^n`, capacity (R181, R187). -/
def packFault (P : Config.Params) (v n : Nat) (s : State) : Option ErrCode :=
  if s.flushed then some .eMisuse
  else if Config.packNMax < n then some .eMisuse
  else if 2 ^ n ≤ v then some .eMisuse
  else if outRoom P (s.outLen + (s.nbits + n) / 8) then none
  else some .eCapacity

/-- `PACK(v, n)` (R132): a faulting `PACK` appends nothing (R186). -/
def pack (P : Config.Params) (v n : Nat) (s : State) : Flow :=
  match packFault P v n s with
  | some e => .stopped (s.raise e)
  | none => .running (appendField v n s)

/-- `PACK_CODE(c, n) = PACK(rev_n(c), n)` (R142, C1). -/
def packCode (P : Config.Params) (c n : Nat) (s : State) : Flow := pack P (rev n c) n s

/-- An extra field: a plain `PACK`, issued only where the field has bits (R147, R149). -/
def packExtra (P : Config.Params) (v n : Nat) (s : State) : Flow :=
  if 0 < n then pack P v n s else .running s

/-- `FLUSH()` (R135); its append raises `E_CAPACITY` beyond the capacity of `OUT` (R181). -/
def flush (P : Config.Params) (s : State) : Flow :=
  if 0 < s.nbits then
    if outRoom P (s.outLen + 1) then
      .running { s with
        out := Memory.write s.out s.outLen (s.acc.extractLsb' 0 8)
        outLen := s.outLen + 1
        acc := 0
        nbits := 0
        flushed := true }
    else .stopped (s.raise .eCapacity)
  else .running { s with flushed := true }

end Sys2Proof.Machine
end

