-- ==== Sys2Proof/Machine/Encoder.lean ====
section
/-! DEFINITION. The block encoder's operations (R141 to R151), shared by the elements and the tokens, and when each is
enabled (R140). -/

namespace Sys2Proof.Machine

/-- The stage after the header or a token: the next token, or `EOB` when none is left (R140). -/
def stageAfter (tk ntok : Nat) : EncStage := if tk < ntok then .tokens else .eob

/-- `ENC_HDR` (R141). -/
def encHdr (P : Config.Params) (s : State) : Flow :=
  ((pack P 1 1 s).andThen (pack P 1 2)).andThen fun s =>
    .running { s with encStage := stageAfter s.tk s.ntok }

/-- `ENC_LIT(b)`, dispatched on `b <= 143` alone (R143, R144). -/
def encLit (P : Config.Params) (b : Byte) (s : State) : Flow :=
  if b.toNat ≤ 143 then packCode P (literalCode8 b) 8 s else packCode P (literalCode9 b) 9 s

/-- A length element: the code of R146, then the extra field of R147. -/
def encLength (P : Config.Params) (code extra : Nat) (s : State) : Flow :=
  ((packCode P (lengthCode code).1 (lengthCode code).2 s).andThen
    (packExtra P extra (lenExtraOf code))).andThen fun s => .running { s with distDue := true }

/-- A distance element: the code of R148, then the extra field of R149. -/
def encDistance (P : Config.Params) (symbol extra : Nat) (s : State) : Flow :=
  ((packCode P symbol 5 s).andThen
    (packExtra P extra (distExtraOf symbol))).andThen fun s => .running { s with distDue := false }

/-- `ENC_MATCH(len, dist)`: a length element, then a distance element (R145); none outside the lookups' range (U3). -/
def encMatch (P : Config.Params) (len dist : Nat) (s : State) : Option Flow :=
  match lenLookup len, distLookup dist with
  | some (code, _, extra), some (symbol, _, extra') =>
    some ((encLength P code extra s).andThen (encDistance P symbol extra'))
  | _, _ => none

/-- The end of a token: `tk` steps on (R29, R140). -/
def tokenDone (s : State) : Flow :=
  .running { s with tk := s.tk + 1, encStage := stageAfter (s.tk + 1) s.ntok }

/-- `ENC_EOB` (R150). -/
def encEob (P : Config.Params) (s : State) : Flow :=
  (packCode P 0 7 s).andThen fun s => .running { s with encStage := .flush }

/-- `ENC_FLUSH`, after which the controller is in `DONE` (R151, R162). -/
def encFlush (P : Config.Params) (s : State) : Flow :=
  (flush P s).andThen fun s => .running { s with phase := .done }

/-! When an operation is enabled: `PHASE = ENCODE` and its place in the sequence (R140, R72). -/

/-- The header is next. -/
def atHeader (s : State) : Bool := s.phase == .encoding && s.encStage == .hdr

/-- A literal, a length element or a token is next. -/
def atLitLen (s : State) : Bool := s.phase == .encoding && s.encStage == .tokens && !s.distDue

/-- The distance element of a match is next. -/
def atDistance (s : State) : Bool := s.phase == .encoding && s.encStage == .tokens && s.distDue

/-- The `EOB` is next: every token is encoded. -/
def atEob (s : State) : Bool :=
  s.phase == .encoding && !s.distDue &&
    (s.encStage == .eob || (s.encStage == .tokens && decide (s.ntok ≤ s.tk)))

/-- An operation that is refused unless it is enabled. -/
def whenEnabled (enabled : Bool) (f : Flow) : Result :=
  if enabled then .next f.state else .refused .notEnabled

/-- A length row. -/
def runLength (code extra : Nat) (s : State) : Result :=
  whenEnabled (atLitLen s) (encLength Config.params code extra s)

/-- A distance row. -/
def runDistance (symbol extra : Nat) (s : State) : Result :=
  whenEnabled (atDistance s) (encDistance Config.params symbol extra s)

end Sys2Proof.Machine
end

