-- ==== Sys2Proof/Machine/DistanceElements.lean ====
section
/-! DEFINITION. The meanings of `DIST0` to `DIST29`: the code of the row, then its extra field (R81, R82, R148, R149). -/

namespace Sys2Proof.Machine

/-- `DIST0` (R148, R149). -/
def execDist0 (s : State) : Result := runDistance 0 0 s

/-- `DIST1` (R148, R149). -/
def execDist1 (s : State) : Result := runDistance 1 0 s

/-- `DIST2` (R148, R149). -/
def execDist2 (s : State) : Result := runDistance 2 0 s

/-- `DIST3` (R148, R149). -/
def execDist3 (s : State) : Result := runDistance 3 0 s

/-- `DIST4` (R148, R149). -/
def execDist4 (e : BitVec 1) (s : State) : Result := runDistance 4 e.toNat s

/-- `DIST5` (R148, R149). -/
def execDist5 (e : BitVec 1) (s : State) : Result := runDistance 5 e.toNat s

/-- `DIST6` (R148, R149). -/
def execDist6 (e : BitVec 2) (s : State) : Result := runDistance 6 e.toNat s

/-- `DIST7` (R148, R149). -/
def execDist7 (e : BitVec 2) (s : State) : Result := runDistance 7 e.toNat s

/-- `DIST8` (R148, R149). -/
def execDist8 (e : BitVec 3) (s : State) : Result := runDistance 8 e.toNat s

/-- `DIST9` (R148, R149). -/
def execDist9 (e : BitVec 3) (s : State) : Result := runDistance 9 e.toNat s

/-- `DIST10` (R148, R149). -/
def execDist10 (e : BitVec 4) (s : State) : Result := runDistance 10 e.toNat s

/-- `DIST11` (R148, R149). -/
def execDist11 (e : BitVec 4) (s : State) : Result := runDistance 11 e.toNat s

/-- `DIST12` (R148, R149). -/
def execDist12 (e : BitVec 5) (s : State) : Result := runDistance 12 e.toNat s

/-- `DIST13` (R148, R149). -/
def execDist13 (e : BitVec 5) (s : State) : Result := runDistance 13 e.toNat s

/-- `DIST14` (R148, R149). -/
def execDist14 (e : BitVec 6) (s : State) : Result := runDistance 14 e.toNat s

/-- `DIST15` (R148, R149). -/
def execDist15 (e : BitVec 6) (s : State) : Result := runDistance 15 e.toNat s

/-- `DIST16` (R148, R149). -/
def execDist16 (e : BitVec 7) (s : State) : Result := runDistance 16 e.toNat s

/-- `DIST17` (R148, R149). -/
def execDist17 (e : BitVec 7) (s : State) : Result := runDistance 17 e.toNat s

/-- `DIST18` (R148, R149). -/
def execDist18 (e : BitVec 8) (s : State) : Result := runDistance 18 e.toNat s

/-- `DIST19` (R148, R149). -/
def execDist19 (e : BitVec 8) (s : State) : Result := runDistance 19 e.toNat s

/-- `DIST20` (R148, R149). -/
def execDist20 (e : BitVec 9) (s : State) : Result := runDistance 20 e.toNat s

/-- `DIST21` (R148, R149). -/
def execDist21 (e : BitVec 9) (s : State) : Result := runDistance 21 e.toNat s

/-- `DIST22` (R148, R149). -/
def execDist22 (e : BitVec 10) (s : State) : Result := runDistance 22 e.toNat s

/-- `DIST23` (R148, R149). -/
def execDist23 (e : BitVec 10) (s : State) : Result := runDistance 23 e.toNat s

/-- `DIST24` (R148, R149). -/
def execDist24 (e : BitVec 11) (s : State) : Result := runDistance 24 e.toNat s

/-- `DIST25` (R148, R149). -/
def execDist25 (e : BitVec 11) (s : State) : Result := runDistance 25 e.toNat s

/-- `DIST26` (R148, R149). -/
def execDist26 (e : BitVec 12) (s : State) : Result := runDistance 26 e.toNat s

/-- `DIST27` (R148, R149). -/
def execDist27 (e : BitVec 12) (s : State) : Result := runDistance 27 e.toNat s

/-- `DIST28` (R148, R149). -/
def execDist28 (e : BitVec 13) (s : State) : Result := runDistance 28 e.toNat s

/-- `DIST29` (R148, R149). -/
def execDist29 (e : BitVec 13) (s : State) : Result := runDistance 29 e.toNat s

end Sys2Proof.Machine
end

