-- ==== Sys2Proof/Machine/Elements.lean ====
section
/-! DEFINITION. The meanings of `HDR`, `LIT8`, `LIT9`, `EOB`. -/

namespace Sys2Proof.Machine

/-- `HDR`: `ENC_HDR` (R73, R141). -/
def execHdr (s : State) : Result := whenEnabled (atHeader s) (encHdr Config.params s)

/-- `LIT8`: `ENC_LIT(b)` for `b <= 143` (R76, R143). -/
def execLit8 (b : Byte) (s : State) : Result :=
  if b.toNat ≤ 143 then whenEnabled (atLitLen s) (encLit Config.params b s) else .refused .illFormed

/-- `LIT9`: `ENC_LIT(b)` for `b >= 144` (R77, R144). -/
def execLit9 (b : Byte) (s : State) : Result :=
  if 144 ≤ b.toNat then whenEnabled (atLitLen s) (encLit Config.params b s) else .refused .illFormed

/-- `EOB`: `ENC_EOB` (R78, R150). -/
def execEob (s : State) : Result := whenEnabled (atEob s) (encEob Config.params s)

end Sys2Proof.Machine
end

