-- ==== Sys2Proof/Machine/HostCommands.lean ====
section
/-! DEFINITION. The meanings of the two commands of `CTRL` (R23): `START` (R164, R182) and `RESET` (R166). -/

namespace Sys2Proof.Machine

/-- What an accepted `START` initialises (R45, R164, R201): the entries of `PREV`, `TOK` and `OUT` are unspecified from
here on and so hold no value, the working registers are free. -/
def State.beginRun (s : State) : State :=
  { s with
    phase := .matching
    size := s.inSize
    p := 0
    ntok := 0
    tk := 0
    scratch := freeScratch s.free
    free := s.free + 1
    head := []
    prev := []
    tok := []
    out := []
    acc := 0
    nbits := 0
    flushed := false
    outLen := 0
    encStage := .hdr
    distDue := false }

/-- `START` (R164): ignored in `MATCH`, `ENCODE` and `ERROR`; `E_SIZE` where `IN_SIZE > N_MAX` (R182). -/
def startRun (P : Config.Params) (s : State) : State :=
  match s.phase with
  | .idle | .done => if P.nMax < s.inSize then s.raise .eSize else s.beginRun
  | .matching | .encoding | .error => s

/-- `START` (R91, R164). -/
def execStart (s : State) : Result := .next (startRun Config.params s)

/-- `RESET`: accepted in every phase (R91, R166). -/
def execReset (s : State) : Result := .next s.resetCore

end Sys2Proof.Machine
end

