-- ==== Sys2Proof/Machine/LengthElements.lean ====
section
/-! DEFINITION. The meanings of `LEN257` to `LEN285`: the code of the row, then its extra field (R79, R80, R146, R147). -/

namespace Sys2Proof.Machine

/-- `LEN257` (R146, R147). -/
def execLen257 (s : State) : Result := runLength 257 0 s

/-- `LEN258` (R146, R147). -/
def execLen258 (s : State) : Result := runLength 258 0 s

/-- `LEN259` (R146, R147). -/
def execLen259 (s : State) : Result := runLength 259 0 s

/-- `LEN260` (R146, R147). -/
def execLen260 (s : State) : Result := runLength 260 0 s

/-- `LEN261` (R146, R147). -/
def execLen261 (s : State) : Result := runLength 261 0 s

/-- `LEN262` (R146, R147). -/
def execLen262 (s : State) : Result := runLength 262 0 s

/-- `LEN263` (R146, R147). -/
def execLen263 (s : State) : Result := runLength 263 0 s

/-- `LEN264` (R146, R147). -/
def execLen264 (s : State) : Result := runLength 264 0 s

/-- `LEN265` (R146, R147). -/
def execLen265 (e : BitVec 1) (s : State) : Result := runLength 265 e.toNat s

/-- `LEN266` (R146, R147). -/
def execLen266 (e : BitVec 1) (s : State) : Result := runLength 266 e.toNat s

/-- `LEN267` (R146, R147). -/
def execLen267 (e : BitVec 1) (s : State) : Result := runLength 267 e.toNat s

/-- `LEN268` (R146, R147). -/
def execLen268 (e : BitVec 1) (s : State) : Result := runLength 268 e.toNat s

/-- `LEN269` (R146, R147). -/
def execLen269 (e : BitVec 2) (s : State) : Result := runLength 269 e.toNat s

/-- `LEN270` (R146, R147). -/
def execLen270 (e : BitVec 2) (s : State) : Result := runLength 270 e.toNat s

/-- `LEN271` (R146, R147). -/
def execLen271 (e : BitVec 2) (s : State) : Result := runLength 271 e.toNat s

/-- `LEN272` (R146, R147). -/
def execLen272 (e : BitVec 2) (s : State) : Result := runLength 272 e.toNat s

/-- `LEN273` (R146, R147). -/
def execLen273 (e : BitVec 3) (s : State) : Result := runLength 273 e.toNat s

/-- `LEN274` (R146, R147). -/
def execLen274 (e : BitVec 3) (s : State) : Result := runLength 274 e.toNat s

/-- `LEN275` (R146, R147). -/
def execLen275 (e : BitVec 3) (s : State) : Result := runLength 275 e.toNat s

/-- `LEN276` (R146, R147). -/
def execLen276 (e : BitVec 3) (s : State) : Result := runLength 276 e.toNat s

/-- `LEN277` (R146, R147). -/
def execLen277 (e : BitVec 4) (s : State) : Result := runLength 277 e.toNat s

/-- `LEN278` (R146, R147). -/
def execLen278 (e : BitVec 4) (s : State) : Result := runLength 278 e.toNat s

/-- `LEN279` (R146, R147). -/
def execLen279 (e : BitVec 4) (s : State) : Result := runLength 279 e.toNat s

/-- `LEN280` (R146, R147). -/
def execLen280 (e : BitVec 4) (s : State) : Result := runLength 280 e.toNat s

/-- `LEN281` (R146, R147). -/
def execLen281 (e : BitVec 5) (s : State) : Result := runLength 281 e.toNat s

/-- `LEN282` (R146, R147). -/
def execLen282 (e : BitVec 5) (s : State) : Result := runLength 282 e.toNat s

/-- `LEN283` (R146, R147). -/
def execLen283 (e : BitVec 5) (s : State) : Result := runLength 283 e.toNat s

/-- `LEN284`; its extra value 31 is never emitted (R87, R146, R147). -/
def execLen284 (e : BitVec 5) (s : State) : Result :=
  if e.toNat ≤ 30 then runLength 284 e.toNat s else .refused .illFormed

/-- `LEN285` (R146, R147). -/
def execLen285 (s : State) : Result := runLength 285 0 s

end Sys2Proof.Machine
end

