-- ==== Sys2Proof/Machine/Tokens.lean ====
section
/-! DEFINITION. The meanings of the token words: one turn of the encoder's loop (R140). -/

namespace Sys2Proof.Machine

/-- `TOK_LIT`: `ENC_LIT(b)`, then the next token (R36, R140). -/
def execTokLit (b : Byte) (s : State) : Result :=
  whenEnabled (atLitLen s) ((encLit Config.params b s).andThen tokenDone)

/-- `TOK_MATCH`: `ENC_MATCH(len, dist)`, then the next token (R36, R140, R145). -/
def execTokMatch (l : BitVec 8) (d : BitVec 15) (s : State) : Result :=
  match encMatch Config.params (tokenLength l) (tokenDistance d) s with
  | some f => whenEnabled (atLitLen s) (f.andThen tokenDone)
  | none => .refused .lookupDomain

end Sys2Proof.Machine
end

