-- ==== Sys2Proof/WellFormed.lean ====
section
/-! DEFINITION. Which instructions are elements CORE emits: the two literal rows split at 143 (R76, R77), and length
code 284 never carries the extra value 31 (R87: length 258 is code 285). Every other operand is limited by its type. -/

namespace Sys2Proof

/-- The range checks on the operands of an element (R76, R77, R87, R122). -/
def Instr.wellFormed (i : Instr) : Bool :=
  match i.shape with
  | .literal8 b => decide (b.toNat ≤ 143)
  | .literal9 b => decide (144 ≤ b.toNat)
  | .length code _ extra => decide (code = 284 → extra ≤ 30)
  | _ => true

end Sys2Proof
end

