-- ==== Sys2Proof/Decode.lean ====
section
/-! DEFINITION. The decoder, the encoder, the row of a table word, and the inverse of the stream. A bit list is decoded
at a POSITION, since the same bits mean different elements at different positions of the stream (the "context" column of
the table). -/

namespace Sys2Proof

/-- Where the bits stand: the header, a literal/length position, a distance position, a word of `TOK`, a write of
`CTRL`. -/
inductive Position where
  | header
  | litLen
  | dist
  | token
  | ctrl
  deriving DecidableEq, Repr

/-- Why bits are no instruction. -/
inductive DecodeError where
  /-- Fewer bits are left than the element has. -/
  | truncated
  /-- `BFINAL = 0` (R87, R88). -/
  | notFinal
  /-- `BTYPE` is not 1 (R87, R88). -/
  | blockType (n : Nat)
  /-- A literal/length code of symbol 286 or 287 (R87, R88). -/
  | unusedLengthSymbol (n : Nat)
  /-- A distance code 30 or 31 (R87, R88). -/
  | unusedDistanceCode (n : Nat)
  /-- A token word with tag 0 and bits 22:8 not zero (R85, R87). -/
  | illegalTokenWord
  /-- A write of `CTRL` with neither bit set: it does nothing (R23). -/
  | noCommand
  /-- A distance greater than the output so far (R88). -/
  | distanceTooFar
  deriving DecidableEq, Repr

/-- What a decoder answers: an instruction and the bits after it. -/
abbrev Decoded := Except DecodeError (Instr × List Bool)

/-- An extra field of `n` bits, least significant first (`getfield` of R88). -/
def withField (n : Nat) (bits : List Bool) (k : BitVec n → Instr) : Decoded :=
  match takeBits n bits with
  | some (e, rest) => .ok (k (BitVec.ofNat n (natOfLsb e)), rest)
  | none => .error .truncated

/-- The length element of symbol 257 to 285, its extra field read from the bits (R79, R80, R88). -/
def lengthElement (sym : Nat) (bits : List Bool) : Decoded :=
  match sym with
  | 257 => .ok (.len257, bits)
  | 258 => .ok (.len258, bits)
  | 259 => .ok (.len259, bits)
  | 260 => .ok (.len260, bits)
  | 261 => .ok (.len261, bits)
  | 262 => .ok (.len262, bits)
  | 263 => .ok (.len263, bits)
  | 264 => .ok (.len264, bits)
  | 265 => withField 1 bits .len265
  | 266 => withField 1 bits .len266
  | 267 => withField 1 bits .len267
  | 268 => withField 1 bits .len268
  | 269 => withField 2 bits .len269
  | 270 => withField 2 bits .len270
  | 271 => withField 2 bits .len271
  | 272 => withField 2 bits .len272
  | 273 => withField 3 bits .len273
  | 274 => withField 3 bits .len274
  | 275 => withField 3 bits .len275
  | 276 => withField 3 bits .len276
  | 277 => withField 4 bits .len277
  | 278 => withField 4 bits .len278
  | 279 => withField 4 bits .len279
  | 280 => withField 4 bits .len280
  | 281 => withField 5 bits .len281
  | 282 => withField 5 bits .len282
  | 283 => withField 5 bits .len283
  | 284 => withField 5 bits .len284
  | 285 => .ok (.len285, bits)
  | n => .error (.unusedLengthSymbol n)

/-- The distance element of symbol 0 to 29, its extra field read from the bits (R81, R82, R88). -/
def distanceElement (sym : Nat) (bits : List Bool) : Decoded :=
  match sym with
  | 0 => .ok (.dist0, bits)
  | 1 => .ok (.dist1, bits)
  | 2 => .ok (.dist2, bits)
  | 3 => .ok (.dist3, bits)
  | 4 => withField 1 bits .dist4
  | 5 => withField 1 bits .dist5
  | 6 => withField 2 bits .dist6
  | 7 => withField 2 bits .dist7
  | 8 => withField 3 bits .dist8
  | 9 => withField 3 bits .dist9
  | 10 => withField 4 bits .dist10
  | 11 => withField 4 bits .dist11
  | 12 => withField 5 bits .dist12
  | 13 => withField 5 bits .dist13
  | 14 => withField 6 bits .dist14
  | 15 => withField 6 bits .dist15
  | 16 => withField 7 bits .dist16
  | 17 => withField 7 bits .dist17
  | 18 => withField 8 bits .dist18
  | 19 => withField 8 bits .dist19
  | 20 => withField 9 bits .dist20
  | 21 => withField 9 bits .dist21
  | 22 => withField 10 bits .dist22
  | 23 => withField 10 bits .dist23
  | 24 => withField 11 bits .dist24
  | 25 => withField 11 bits .dist25
  | 26 => withField 12 bits .dist26
  | 27 => withField 12 bits .dist27
  | 28 => withField 13 bits .dist28
  | 29 => withField 13 bits .dist29
  | n => .error (.unusedDistanceCode n)

/-- The header (R73, R88). -/
def decodeHeader (bits : List Bool) : Decoded :=
  match bits with
  | final :: t0 :: t1 :: rest =>
    if final then
      if natOfLsb [t0, t1] = 1 then .ok (.hdr, rest) else .error (.blockType (natOfLsb [t0, t1]))
    else .error .notFinal
  | _ => .error .truncated

/-- An element at a literal/length position: the first seven code bits decide the length of the code (R74, R88). -/
def decodeLitLen (bits : List Bool) : Decoded :=
  match takeBits 7 bits with
  | none => .error .truncated
  | some (c, rest) =>
    let c7 := natOfMsb c
    if c7 = 0 then .ok (.eob, rest)
    else if c7 ≤ 0x17 then lengthElement (256 + c7) rest
    else
      match rest with
      | [] => .error .truncated
      | b8 :: rest =>
        let c8 := 2 * c7 + b8.toNat
        if c8 ≤ 0xBF then .ok (.lit8 (BitVec.ofNat 8 (c8 - 0x30)), rest)
        else if c8 ≤ 0xC7 then lengthElement (280 + (c8 - 0xC0)) rest
        else
          match rest with
          | [] => .error .truncated
          | b9 :: rest => .ok (.lit9 (BitVec.ofNat 8 (144 + (2 * c8 + b9.toNat - 0x190))), rest)

/-- An element at a distance position (R81, R82, R88). -/
def decodeDistance (bits : List Bool) : Decoded :=
  match takeBits 5 bits with
  | none => .error .truncated
  | some (c, rest) => distanceElement (natOfMsb c) rest

/-- A word of `TOK` (R85, R87). -/
def decodeTokenWord (w : TokenWord) : Except DecodeError Instr :=
  if w.getLsbD 23 then .ok (.tokMatch (w.extractLsb' 0 8) (w.extractLsb' 8 15))
  else if w.extractLsb' 8 15 = 0#15 then .ok (.tokLit (w.extractLsb' 0 8))
  else .error .illegalTokenWord

/-- The 24 bits of a token word, bit 0 first. -/
def decodeToken (bits : List Bool) : Decoded :=
  match takeBits 24 bits with
  | none => .error .truncated
  | some (w, rest) =>
    match decodeTokenWord (BitVec.ofNat 24 (natOfLsb w)) with
    | .ok i => .ok (i, rest)
    | .error e => .error e

/-- The command of a `CTRL` write from its bits 0 and 1: `RESET` wins, writing 0 does nothing (R23, R91). -/
def decodeCtrlBits (startBit resetBit : Bool) : Except DecodeError Instr :=
  if resetBit then .ok .reset else if startBit then .ok .start else .error .noCommand

/-- The command of a `CTRL` write; bits above bit 1 are ignored (R23, U11). -/
def decodeCtrl (v : Nat) : Except DecodeError Instr := decodeCtrlBits (v.testBit 0) (v.testBit 1)

/-- The two bits of a `CTRL` write, bit 0 first. -/
def decodeCommand (bits : List Bool) : Decoded :=
  match bits with
  | s :: r :: rest =>
    match decodeCtrlBits s r with
    | .ok i => .ok (i, rest)
    | .error e => .error e
  | _ => .error .truncated

/-- THE DECODER: total on every bit list at every position, rejecting by name. -/
def decode (pos : Position) (bits : List Bool) : Decoded :=
  match pos with
  | .header => decodeHeader bits
  | .litLen => decodeLitLen bits
  | .dist => decodeDistance bits
  | .token => decodeToken bits
  | .ctrl => decodeCommand bits

/-! The encoder, from the encoding tables of the spec. -/

/-- The code part of a length element: 7 bits up to code 279, 8 bits from 280 on, most significant bit first (R79). -/
def lengthCodeBits (code : Nat) : List Bool :=
  if code ≤ 279 then msbBits 7 (code - 256) else msbBits 8 (0xC0 + (code - 280))

/-- The bits of a row: stream order for an element (R73 to R82), bit 0 first for a token word (R85) and a `CTRL`
write (R91; the ignored `START` bit of `RESET` is written as 0). -/
def Shape.bits : Shape → List Bool
  | .header => lsbBits 1 1 ++ lsbBits 2 1
  | .literal8 b => msbBits 8 (0x30 + b.toNat)
  | .literal9 b => msbBits 9 (0x190 + (b.toNat - 144))
  | .endOfBlock => msbBits 7 0
  | .length code k e => lengthCodeBits code ++ lsbBits k e
  | .distance symbol k e => msbBits 5 symbol ++ lsbBits k e
  | .tokenLit b => lsbBits 24 b.toNat
  | .tokenMatch l d => lsbBits 24 (0x800000 + d.toNat * 256 + l.toNat)
  | .start => [true, false]
  | .reset => [false, true]

/-- The bits of an instruction, in the order in which its word stores them. -/
def encodeBits (i : Instr) : List Bool := i.shape.bits

/-- THE ENCODER: the width of the instruction's word and its value, numbered as the table numbers it (R90). -/
def encode (i : Instr) : Nat × Nat := ((encodeBits i).length, natOfLsb (encodeBits i))

/-- The position an instruction is decoded at. -/
def Instr.position (i : Instr) : Position :=
  match i.shape with
  | .header => .header
  | .distance _ _ _ => .dist
  | .tokenLit _ => .token
  | .tokenMatch _ _ => .token
  | .start => .ctrl
  | .reset => .ctrl
  | _ => .litLen

/-- The token of a decoded token word (R36, R85). -/
def Instr.token : Instr → Option Token
  | .tokLit b => some (.literal b)
  | .tokMatch l d => some (.backRef (l.toNat + 3) (d.toNat + 1))
  | _ => none

/-- The token word of a token (R85). -/
def Token.word : Token → TokenWord
  | .literal b => 0#16 ++ b
  | .backRef len dist => 1#1 ++ BitVec.ofNat 15 (dist - 1) ++ BitVec.ofNat 8 (len - 3)

/-- The token of a token word (R85); none for an illegal word. -/
def tokenOfWord (w : TokenWord) : Option Token :=
  match decodeTokenWord w with
  | .ok i => i.token
  | .error _ => none

/-! The rows of the table. The table's numbers do not say the position; log 15 says in which order the positions are
tried. -/

/-- The instruction the whole word is at one position: its bits fill `nbits` in whole bytes and the bits after it are
zero. -/
def decodeWordAt (pos : Position) (nbits w : Nat) : Option Instr :=
  match decode pos (lsbBits nbits w) with
  | .ok (i, rest) =>
    if ((encodeBits i).length + 7) / 8 * 8 = nbits ∧ rest.all (· == false) then some i else none
  | .error _ => none

/-- Whether an instruction is one of the two literal rows, which no mask of the table tells (R90). -/
def Instr.isLiteralRow : Instr → Bool
  | .lit8 _ => true
  | .lit9 _ => true
  | _ => false

/-- The instruction the decoder reads from a word of the table (log 15): the header, the host commands, the fixed
patterns of a literal/length position, the distance position, the token words, and last the literal ranges. -/
def decodeTableWord (nbits w : Nat) : Option Instr :=
  decodeWordAt .header nbits w
  <|> decodeWordAt .ctrl nbits w
  <|> (decodeWordAt .litLen nbits w).filter (fun i => !i.isLiteralRow)
  <|> decodeWordAt .dist nbits w
  <|> decodeWordAt .token nbits w
  <|> decodeWordAt .litLen nbits w

/-! The stream read back (R88): not part of the hardware (R5), given so that the round trip can be stated. -/

/-- `copy(o, n, dist)` of R37: `n` bytes from `dist` back, one by one; none where `dist` is not in `1 .. |o|`. -/
def copyBack (o : List Byte) : Nat → Nat → Option (List Byte)
  | 0, _ => some o
  | n + 1, dist =>
    if 1 ≤ dist then
      match o[o.length - dist]? with
      | some b => if dist ≤ o.length then copyBack (o ++ [b]) n dist else none
      | none => none
    else none

/-- One token of `replay` (R37). -/
def replayToken (o : List Byte) : Token → Option (List Byte)
  | .literal b => some (o ++ [b])
  | .backRef len dist => copyBack o len dist

/-- `replay` from an output so far (R37). -/
def replayFrom (o : List Byte) : List Token → Option (List Byte)
  | [] => some o
  | t :: ts => (replayToken o t).bind fun o' => replayFrom o' ts

/-- `replay` (R37). -/
def replay (ts : List Token) : Option (List Byte) := replayFrom [] ts

/-- The elements after the header up to and with the `EOB` (R88); `fuel` bounds the number of elements. -/
def inflateElements : Nat → List Bool → List Byte → Except DecodeError (List Byte × List Bool)
  | 0, _, _ => .error .truncated
  | fuel + 1, bits, o =>
    match decode .litLen bits with
    | .error e => .error e
    | .ok (i, rest) =>
      match i.shape with
      | .literal8 b => inflateElements fuel rest (o ++ [b])
      | .literal9 b => inflateElements fuel rest (o ++ [b])
      | .endOfBlock => .ok (o, rest)
      | .length code _ e =>
        match decode .dist rest with
        | .error e => .error e
        | .ok (j, rest) =>
          match j.shape with
          | .distance symbol _ x =>
            match copyBack o (lenBaseOf code + e) (distBaseOf symbol + x) with
            | some o => inflateElements fuel rest o
            | none => .error .distanceTooFar
          | _ => .error .truncated
      | _ => .error .truncated

/-- The decoder of R88: the bytes of the block and the bits left unread. -/
def inflate (bits : List Bool) : Except DecodeError (List Byte × List Bool) :=
  match decode .header bits with
  | .error e => .error e
  | .ok (_, rest) => inflateElements (bits.length + 1) rest []

end Sys2Proof
end

