-- ==== Sys2Proof/Machine/HostPort.lean ====
section
/-! DEFINITION. The host's transactions (R22 to R27, R163, R165, U5, U6, U11) but for the commands of `CTRL`, which are
instructions. -/

namespace Sys2Proof.Machine

/-- A read returns `v` and has no other effect on CORE (R66). -/
def State.returns (s : State) (v : Nat) : State := { s with rdata := some v }

/-- The state of CORE, without what is the host's: its pending transactions and the value of its last read. -/
def State.withoutHost (s : State) : State := { s with inbox := [], rdata := none }

/-- A read `r` through a port of `w` bits that the spec gives no value returns a free one, fixed by the state of CORE and
the location, so that reading is idempotent; like every read it has no other effect (R66, U6; log 9). -/
def State.returnsFree (s : State) (w : Nat) (r : Request) : State :=
  s.returns (Config.freeRead s.withoutHost r % 2 ^ w)

/-- A write of `IN_SIZE`: ignored during a run (R22, R163). A value wider than the register leaves a free one (log 10). -/
def writeInSize (P : Config.Params) (v : Nat) (s : State) : State :=
  if s.phase.running then s
  else if v < 2 ^ Config.posW P then { s with inSize := v }
  else { s with inSize := Config.freeSize s.free % 2 ^ Config.posW P, free := s.free + 1 }

/-- `HOST_LOAD` of one byte: `IN[i] <- b` for `i < N_MAX` while no run is in progress (R163, U5). -/
def writeIn (P : Config.Params) (i : Nat) (b : Byte) (s : State) : Result :=
  if s.phase.running then .refused .hostWriteDuringRun
  else if i < P.nMax then .next { s with input := Memory.write s.input i b }
  else .fault (.outOfRange .input)

/-- A read of `IN_SIZE`; during a run the spec states no value (R22; log 9). -/
def readInSize (P : Config.Params) (s : State) : State :=
  if s.phase.running then s.returnsFree (Config.posW P) .readInSize else s.returns s.inSize

/-- A read of `OUT_SIZE`: `out_len` in `IDLE` and `DONE`, no stated value otherwise (R26, D21, R186; log 9). -/
def readOutSize (P : Config.Params) (s : State) : State :=
  match s.phase with
  | .idle | .done => s.returns s.outLen
  | .matching | .encoding | .error => s.returnsFree (Config.posW P + 1) .readOutSize

/-- `HOST_READ` of `OUT[i]`: the byte in `DONE` below `OUT_SIZE`, no stated value otherwise (R165, U6). -/
def readOut (i : Nat) (s : State) : Result :=
  if s.phase = .done ∧ i < s.outLen then
    match Memory.read s.out i with
    | some b => .next (s.returns b.toNat)
    | none => .fault (.noValue .out)
  else .next (s.returnsFree 8 (.readOut i))

end Sys2Proof.Machine
end

