-- ==== Sys2Proof/Machine/Matcher.lean ====
section
/-! DEFINITION. The matcher unit: `MATCH_STEP` (R101) and the operations it is made of (R102 to R110). The whole of it
is one atomic step (R15). -/

namespace Sys2Proof.Machine

/-- `HASH3(q)`: the three bytes in the order `IN[q]`, `IN[q+1]`, `IN[q+2]` (R62, R102). -/
def hash3 (P : Config.Params) (s : State) (q : Nat) : Except Fault (BitVec 15) :=
  (readIn s q).bind fun b0 =>
  (readIn s (q + 1)).bind fun b1 =>
  (readIn s (q + 2)).bind fun b2 => .ok (P.hash b0 b1 b2)

/-- The loop of `CMPLEN(m, p, cap)` from `k` on, with `fuel` bytes left to compare (R105). -/
def cmpLenFrom (s : State) (m p : Nat) : Nat → Nat → Except Fault Nat
  | 0, k => .ok k
  | fuel + 1, k =>
    (readIn s (m + k)).bind fun a =>
    (readIn s (p + k)).bind fun b => if a = b then cmpLenFrom s m p fuel (k + 1) else .ok k

/-- `CMPLEN(m, p, cap)` (R105). -/
def cmpLen (s : State) (m p cap : Nat) : Except Fault Nat := cmpLenFrom s m p cap 0

/-- The registers of a chain walk while it runs, as numbers (R28). -/
structure Walk where
  m : Option Nat
  chain : Nat
  k : Nat
  d : Int
  bestLen : Nat
  bestDist : Nat
  deriving DecidableEq, Repr

/-- `BEST`: replaced only by a strictly greater length (R106). -/
def Walk.best (w : Walk) : Walk :=
  if w.bestLen < w.k then { w with bestLen := w.k, bestDist := w.d.toNat } else w

/-- `CAND`: candidate `m` is counted; it is compared unless its distance is out of `1 .. 32768` (R104, R105, R106). -/
def examine (s : State) (p cap m : Nat) (w : Walk) : Except Fault Walk :=
  let d : Int := (p : Int) - (m : Int)
  let w := { w with chain := w.chain + 1, d := d }
  if d > 32768 ∨ d ≤ 0 then .ok w
  else (cmpLen s m p cap).bind fun k => .ok ({ w with k := k } : Walk).best

/-- The walk along the chain, `fuel` candidates at most (R110). -/
def walk (P : Config.Params) (s : State) (p cap : Nat) : Nat → Walk → Except Fault Walk
  | 0, w => .ok w
  | fuel + 1, w =>
    match w.m with
    | none => .ok w
    | some m =>
      (examine s p cap m w).bind fun w =>
      (readPrev P s m).bind fun next => walk P s p cap fuel { w with m := next }

/-- `cap` of the search at `p` (R103). -/
def searchCap (s : State) : Nat := min Config.maxMatch (s.size - s.p)

/-- The registers at the entry of the search at `p`, with `h` the hash there (R103). -/
def searchEntry (s : State) (h : BitVec 15) : Walk where
  m := readHead s h
  chain := 0
  k := s.scratch.k.toNat
  d := s.scratch.d
  bestLen := 0
  bestDist := 0

/-- `SEARCH` at `p` (R103 to R106, R110): no search where fewer than 3 bytes remain. It writes the working registers
only. -/
def search (P : Config.Params) (s : State) : Except Fault State :=
  if s.p + 3 ≤ s.size then
    (hash3 P s s.p).bind fun h =>
    (walk P s s.p (searchCap s) Config.maxChain (searchEntry s h)).bind fun w =>
      .ok { s with scratch := {
        h := h
        m := w.m
        chain := BitVec.ofNat 8 w.chain
        cap := BitVec.ofNat 9 (searchCap s)
        k := BitVec.ofNat 9 w.k
        d := w.d
        bestLen := BitVec.ofNat 9 w.bestLen
        bestDist := BitVec.ofNat 16 w.bestDist } }
  else .ok { s with scratch := { s.scratch with bestLen := 0, bestDist := 0 } }

/-- The token the step at `p` emits (R107). -/
def chooseToken (s : State) : Except Fault Token :=
  if Config.minMatch ≤ s.scratch.bestLen.toNat then
    .ok (.backRef s.scratch.bestLen.toNat s.scratch.bestDist.toNat)
  else (readIn s s.p).bind fun b => .ok (.literal b)

/-- `INSERT` of one position (R108); `h` takes its hash (R28; log 11). -/
def insertAt (P : Config.Params) (pos : Nat) (s : State) : Except Fault State :=
  if pos + 3 ≤ s.size then
    if pos < P.nMax then
      (hash3 P s pos).bind fun hh =>
        .ok { s with
          scratch := { s.scratch with h := hh }
          prev := Memory.write s.prev pos (readHead s hh)
          head := Memory.write s.head hh.toNat pos }
    else .error (.outOfRange .prev)
  else .ok s

/-- `INSERT` of `n` positions from `pos` on, in ascending order (R108, R207). -/
def insertFrom (P : Config.Params) : Nat → Nat → State → Except Fault State
  | 0, _, s => .ok s
  | n + 1, pos, s => (insertAt P pos s).bind fun s => insertFrom P n (pos + 1) s

/-- `EMIT`'s append to `TOK` (R54, R107). -/
def appendToken (t : Token) (s : State) : State :=
  { s with tok := Memory.write s.tok s.ntok t.word, ntok := s.ntok + 1 }

/-- `MATCH_STEP` (R101): search, emit, insert, advance. `EMIT` beyond the capacity of `TOK` raises `E_CAPACITY` and does
nothing else (R181, R186; log 21). -/
def matchStep (P : Config.Params) (s : State) : Except Fault State :=
  (search P s).bind fun s =>
  (chooseToken s).bind fun t =>
    if s.ntok < Config.tokCapacity P then
      (insertFrom P (covers t) s.p (appendToken t s)).bind fun s => .ok { s with p := s.p + covers t }
    else .ok (s.raise .eCapacity)

end Sys2Proof.Machine
end

