-- ==== Sys2Proof/Machine/Fetch.lean ====
section
/-! DEFINITION. What a step does next. CORE fetches no instructions (R46, R70): a transaction that is due comes first
(log 3); otherwise the phase and the encoder's stage say what runs (R29, R140, R162), and a token is fetched from
`TOK[tk]` (R54) and decoded. -/

namespace Sys2Proof.Machine

/-- What a step does: run an instruction from a state, or an operation that has no encoding, already settled. -/
inductive Fetched where
  | run (i : Instr) (s : State)
  | settled (r : Result)

/-- The outcome of an operation that may be stuck. -/
def Fetched.ofExcept : Except Fault State → Fetched
  | .ok s => .settled (.next s)
  | .error f => .settled (.fault f)

/-- The token at `TOK[tk]` (R54, R140). -/
def fetchToken (s : State) : Fetched :=
  match readTok s s.tk with
  | .error f => .settled (.fault f)
  | .ok w =>
    match decodeTokenWord w with
    | .ok i => .run i s
    | .error _ => .settled (.fault .illegalToken)

/-- The transition from `MATCH` to `ENCODE` (R162). -/
def State.enterEncode (s : State) : State := { s with phase := .encoding, tk := 0, encStage := .hdr }

/-- CORE's own next operation (R140, R162). Outside a run it waits for the host (R195; log 17). -/
def fetchCore (P : Config.Params) (s : State) : Fetched :=
  match s.phase with
  | .idle | .done | .error => .settled (.next s)
  | .matching =>
    if s.p < s.size then Fetched.ofExcept (matchStep P s)
    else if s.p = s.size then .settled (.next s.enterEncode)
    else .settled (.fault .cursorPastEnd)
  | .encoding =>
    match s.encStage with
    | .hdr => .run .hdr s
    | .tokens => if s.tk < s.ntok then fetchToken s else .run .eob s
    | .eob => .run .eob s
    | .flush => .settled (.next (encFlush P s).state)

/-- The position of the element the encoder takes next (R72). -/
def encoderPosition (s : State) : Position :=
  if s.encStage = .hdr then .header else if s.distDue then .dist else .litLen

/-- One element driven at the encoder unit (log 4). -/
def fetchDriven (bits : List Bool) (s : State) : Fetched :=
  match decode (encoderPosition s) bits with
  | .ok (i, []) => .run i s
  | _ => .settled (.refused .noElement)

/-- A transaction that is due. Writes of read-only registers and of 0 to `CTRL` do nothing; `CTRL` reads 0 (R22, R23,
U11). -/
def serve (P : Config.Params) (r : Request) (s : State) : Fetched :=
  match r with
  | .writeCtrl v =>
    match decodeCtrl v with
    | .ok i => .run i s
    | .error _ => .settled (.next s)
  | .writeStatus _ => .settled (.next s)
  | .writeOutSize _ => .settled (.next s)
  | .writeErr _ => .settled (.next s)
  | .writeInSize v => .settled (.next (writeInSize P v s))
  | .writeIn i b => .settled (writeIn P i b s)
  | .readCtrl => .settled (.next (s.returns 0))
  | .readStatus => .settled (.next (s.returns s.phase.code.toNat))
  | .readInSize => .settled (.next (readInSize P s))
  | .readOutSize => .settled (.next (readOutSize P s))
  | .readErr => .settled (.next (s.returns s.err.code.toNat))
  | .readOut i => .settled (readOut i s)
  | .drive bits => fetchDriven bits s

/-- The transaction that is due, and the state without it (log 3). -/
def State.due (s : State) : Option (Request × State) :=
  match s.inbox with
  | ⟨0, r⟩ :: rest => some (r, { s with inbox := rest })
  | _ => none

/-- One step of CORE has passed for the transaction that waits (log 3). -/
def State.tick (s : State) : State :=
  match s.inbox with
  | ⟨n + 1, r⟩ :: rest => { s with inbox := ⟨n, r⟩ :: rest }
  | _ => s

/-- What a step does next. -/
def fetch (P : Config.Params) (s : State) : Fetched :=
  match s.due with
  | some (r, s) => serve P r s
  | none => fetchCore P s.tick

/-! How a word of the table is placed where the next step takes it (log 16). -/

/-- The encoder at a place of its sequence. -/
def State.encoderAt (s : State) (stage : EncStage) (due : Bool) : State :=
  { s with phase := .encoding, encStage := stage, distDue := due }

/-- `s` with a transaction that is due before everything else. -/
def State.request (s : State) (r : Request) : State := { s with inbox := ⟨0, r⟩ :: s.inbox }

/-- `s` with no transaction pending, so that CORE's own operation is next. -/
def State.alone (s : State) : State := { s with inbox := [] }

/-- `s` with the instruction `i`, whose bits are `bits`, placed so that the next step runs it. -/
def State.place (s : State) (i : Instr) (bits : List Bool) : State :=
  match i.shape with
  | .header => (s.encoderAt .hdr false).alone
  | .endOfBlock => (s.encoderAt .eob false).alone
  | .literal8 _ | .literal9 _ | .length _ _ _ => (s.encoderAt .tokens false).request (.drive bits)
  | .distance _ _ _ => (s.encoderAt .tokens true).request (.drive bits)
  | .tokenLit _ | .tokenMatch _ _ =>
    { (s.encoderAt .tokens false).alone with
      tok := Memory.write s.tok s.tk (BitVec.ofNat 24 (natOfLsb bits))
      ntok := max s.ntok (s.tk + 1) }
  | .start | .reset => s.request (.writeCtrl (natOfLsb bits))

/-- `s` with a word of the table placed where the next step takes it; a word that is no instruction is driven at the
encoder, which refuses it. -/
def State.placeWord (s : State) (nbits w : Nat) : State :=
  match decodeTableWord nbits w with
  | some i => s.place i ((lsbBits nbits w).take (encodeBits i).length)
  | none => (s.encoderAt .tokens false).request (.drive (lsbBits nbits w))

end Sys2Proof.Machine
end

