-- ==== Sys2Proof/Machine/Step.lean ====
section
/-! DEFINITION. One step of CORE: what the fetch finds, run or already settled. -/

namespace Sys2Proof.Machine

/-- One step (R15, R162). -/
def step (s : State) : Host.Outcome State Fault Refusal :=
  match fetch Config.params s with
  | .run i s => exec i s
  | .settled r => r

/-- `s` with a word of the table placed where the next step takes it (log 16). -/
def State.withFetchWord (s : State) (nbits w : Nat) : State := s.placeWord nbits w

end Sys2Proof.Machine
end

