-- ==== Sys2Proof/Safety.lean ====
section
/-! DEFINITION. What counts as a safe state and a good run, in the words the claims use: the invariants of R32, R37,
R115 and R130, the shape of the block an encoding writes (R72, R156), the effect of an append to the stream (R134). -/

namespace Sys2Proof.Machine

/-! Tokens and the block. -/

/-- `TOK[0 .. n)` as tokens; none where an entry holds no value or no legal word. -/
def State.tokensTo (s : State) : Nat → Option (List Token)
  | 0 => some []
  | n + 1 =>
    match s.tokensTo n, Memory.read s.tok n with
    | some ts, some w => (tokenOfWord w).map fun t => ts ++ [t]
    | _, _ => none

/-- The TokenStream `TOK[0 .. ntok)` (R34). -/
def State.tokens (s : State) : Option (List Token) := s.tokensTo s.ntok

/-- `IN[0 .. n)`; none where a byte was never written. -/
def State.inputTo (s : State) : Nat → Option (List Byte)
  | 0 => some []
  | n + 1 =>
    match s.inputTo n, Memory.read s.input n with
    | some bs, some b => some (bs ++ [b])
    | _, _ => none

/-- `elem` of R156: the stream bits of a token, a literal element or a length element and a distance element; nothing
for a token outside the lookups' range. -/
def tokenBits : Token → List Bool
  | .literal b =>
    if b.toNat ≤ 143 then msbBits 8 (0x30 + b.toNat) else msbBits 9 (0x190 + (b.toNat - 144))
  | .backRef len dist =>
    match lenLookup len, distLookup dist with
    | some (code, k, e), some (symbol, k', e') =>
      lengthCodeBits code ++ lsbBits k e ++ msbBits 5 symbol ++ lsbBits k' e'
    | _, _ => []

/-- The bits of a block before its padding (R72, R156). -/
def blockBody (ts : List Token) : List Bool :=
  [true, true, false] ++ ts.flatMap tokenBits ++ List.replicate 7 false

/-- `bits(encode(ts))` (R156). -/
def blockBits (ts : List Token) : List Bool := blockBody ts ++ padBits (blockBody ts).length

/-- How many input bytes the tokens cover. -/
def covered (ts : List Token) : Nat := (ts.map covers).sum

/-! The bit writer. -/

/-- The invariant of R130 on the pending bits: fewer than 8, and no bit of `acc` at or above `nbits` is set. -/
structure BitWriterInv (s : State) : Prop where
  pending : s.nbits ≤ 7
  clean : s.acc.toNat < 2 ^ s.nbits

/-- The bit writer takes `n` more bits: it satisfies R130, is not flushed, and `OUT` has room for the whole bytes. -/
structure WriterReady (P : Config.Params) (s : State) (n : Nat) : Prop where
  inv : BitWriterInv s
  notFlushed : s.flushed = false
  room : s.outLen + (s.nbits + n) / 8 ≤ Config.outCapacity P

/-- `t` is `s` with `bits` appended to the stream (R134): the stored bytes are those at `out_len` up to the new
`out_len`, and nothing but the stream's own registers and bytes differs. -/
structure Appends (s t : State) (bits : List Bool) : Prop where
  stream : t.stream = s.stream ++ bits
  inv : BitWriterInv t
  outLen : t.outLen = s.outLen + (s.nbits + bits.length) / 8
  nbits : t.nbits = (s.nbits + bits.length) % 8
  bytes : ∀ a, ¬ (s.outLen ≤ a ∧ a < s.outLen + (s.nbits + bits.length) / 8) →
    Memory.read t.out a = Memory.read s.out a
  rest : t = { s with acc := t.acc, nbits := t.nbits, out := t.out, outLen := t.outLen }

/-! The reset state. -/

/-- What R45 and R200 state of the reset state: the registers with a value, and `HEAD`. -/
structure ResetValues (t : State) : Prop where
  phase : t.phase = .idle
  err : t.err = .eNone
  inSize : t.inSize = 0
  size : t.size = 0
  p : t.p = 0
  ntok : t.ntok = 0
  tk : t.tk = 0
  head : ∀ h, readHead t h = none
  acc : t.acc = 0
  nbits : t.nbits = 0
  flushed : t.flushed = false
  outLen : t.outLen = 0
  encStage : t.encStage = .hdr

/-! The machine's invariant. -/

/-- The spaces keep their canonical form, `OUT` and `TOK` are filled exactly up to `out_len` and `ntok` (R54, R55), every
token word is that of a legal token (R36, U4), and no index is beyond a capacity (R50, R58). -/
structure SpaceInv (P : Config.Params) (s : State) : Prop where
  canonical : Memory.wf s.input ∧ Memory.wf s.head ∧ Memory.wf s.prev ∧ Memory.wf s.tok ∧ Memory.wf s.out
  input : ∀ i b, Memory.read s.input i = some b → i < P.nMax
  head : ∀ h q, Memory.read s.head h = some q → h < 32768
  tokFilled : ∀ i, (Memory.read s.tok i).isSome = decide (i < s.ntok)
  tokLegal : ∀ i w, Memory.read s.tok i = some w → ∃ t : Token, t.legal ∧ w = t.word
  outFilled : ∀ i, (Memory.read s.out i).isSome = decide (i < s.outLen)
  outCapacity : s.outLen ≤ Config.outCapacity P

/-- The hash chains are causal (R32, R115): `HEAD` and `PREV` hold inserted positions only, a link goes to a smaller
position, and every inserted position has its link. -/
structure ChainInv (s : State) : Prop where
  head : ∀ h q, Memory.read s.head h = some q → q < s.p ∧ q + 3 ≤ s.size
  prev : ∀ q v, Memory.read s.prev q = some v → q < s.p ∧ q + 3 ≤ s.size ∧ ∀ r, v = some r → r < q
  inserted : ∀ q, q < s.p → q + 3 ≤ s.size → (Memory.read s.prev q).isSome

/-- The bounds of R116 and the controller's bookkeeping (R25, R27, R29, R41). -/
structure ControlInv (P : Config.Params) (s : State) : Prop where
  cursor : s.p ≤ s.size
  size : s.size ≤ P.nMax
  tokens : s.ntok ≤ s.p
  encoded : s.tk ≤ s.ntok
  inSize : s.inSize < 2 ^ Config.posW P
  err : s.err = .eNone ↔ s.phase ≠ .error
  running : s.phase.running = true → s.flushed = false
  covering : s.phase = .encoding → s.p = s.size

/-- The machine's invariant. -/
structure Inv (P : Config.Params) (s : State) : Prop where
  writer : BitWriterInv s
  spaces : SpaceInv P s
  chains : ChainInv s
  control : ControlInv P s

/-- The replay invariant of R37: during a run the tokens so far reconstruct `IN[0 .. p)`. -/
def ReplayInv (s : State) : Prop :=
  s.phase.running = true →
    ∃ ts bs, s.tokens = some ts ∧ s.inputTo s.p = some bs ∧ replay ts = some bs

/-! The hash chains as the spec means them (R30, R31). -/

/-- The byte at `i` of `IN`. -/
def byteAt (s : State) (i : Nat) : Byte := (Memory.read s.input i).getD 0

/-- `HASH3(q)` read off `IN` (R102). -/
def hashAt (P : Config.Params) (s : State) (q : Nat) : BitVec 15 :=
  P.hash (byteAt s q) (byteAt s (q + 1)) (byteAt s (q + 2))

/-- `S(p)` of R113: the positions below `n` that can be inserted and have hash `h`, in decreasing order. -/
def chainBelow (P : Config.Params) (s : State) (h : BitVec 15) : Nat → List Nat
  | 0 => []
  | n + 1 =>
    if n + 3 ≤ s.size ∧ hashAt P s n = h then n :: chainBelow P s h n else chainBelow P s h n

/-- `HEAD` holds the most recent inserted position of its hash and `PREV` the previous one of the same hash (R30, R31). -/
structure ChainsExact (P : Config.Params) (s : State) : Prop where
  head : ∀ h : BitVec 15, readHead s h = (chainBelow P s h s.p).head?
  prev : ∀ q, q < s.p → q + 3 ≤ s.size →
    Memory.read s.prev q = some (chainBelow P s (hashAt P s q) q).head?

/-- Every byte of the input is written (R203 step 2). -/
def Loaded (s : State) : Prop := ∀ i, i < s.size → (Memory.read s.input i).isSome

/-- `lcp(q)` of R113: how many bytes from `q` and from `p` agree, at most `n`. -/
def commonPrefix (s : State) (q p : Nat) : Nat → Nat
  | 0 => 0
  | n + 1 => if byteAt s q = byteAt s p then commonPrefix s (q + 1) (p + 1) n + 1 else 0

/-- `C(p)` of R113, less the candidates out of the window. -/
def candidates (P : Config.Params) (s : State) : List Nat :=
  ((chainBelow P s (hashAt P s s.p) s.p).take 128).filter fun q => decide (s.p - q ≤ 32768)

/-- The matcher alone (R100): `n` steps at most, until `p = size`. -/
def matchRun (P : Config.Params) : Nat → State → Except Fault State
  | 0, s => .ok s
  | n + 1, s => if s.p < s.size then (matchStep P s).bind (matchRun P n) else .ok s

/-! When an instruction executes. -/

/-- Whether the encoder's sequence is where the instruction belongs (R72, R140); a host command is taken in every
phase (R23). -/
def enabledAt (i : Instr) (s : State) : Bool :=
  match i.shape with
  | .header => atHeader s
  | .literal8 _ => atLitLen s
  | .literal9 _ => atLitLen s
  | .length _ _ _ => atLitLen s
  | .tokenLit _ => atLitLen s
  | .tokenMatch _ _ => atLitLen s
  | .distance _ _ _ => atDistance s
  | .endOfBlock => atEob s
  | .start => true
  | .reset => true

/-- The step from `s` runs the instruction `i`. -/
def StepRuns (i : Instr) (s : State) : Prop := ∃ s', fetch Config.params s = .run i s'

/-! A run. -/

/-- The host's part before `START` is done (R203): the phase accepts it, `IN` holds the bytes `S`, `IN_SIZE` their number,
which is at most `N_MAX`, and no transaction is pending. -/
structure ReadyToStart (P : Config.Params) (s : State) (S : List Byte) : Prop where
  phase : s.phase = .idle ∨ s.phase = .done
  inSize : s.inSize = S.length
  fits : S.length ≤ P.nMax
  input : s.inputTo S.length = some S
  quiet : s.inbox = []

/-- Every step of CORE from `s` goes on for `n` steps and leads to `t`. -/
def RunsTo (n : Nat) (s t : State) : Prop := Sys2Proof.core.run n s = .next t

end Sys2Proof.Machine
end

