-- ==== Sys2Proof/Certificates/Slice0/Obligations.lean ====
section
/-! DEFINITION. The statements for the provers. Each says in its docstring which rule of spec/ it formalises, or which
choice of the model it rests on. `Config.params` holds the open parameters `N_MAX` and `HASH`: nothing is known of them. -/

open Sys2Proof Sys2Proof.Machine

/-! Reset and the host commands. -/

/-- R200: power-on and the `RESET` command, from every state, leave the values of the "After RESET" column. -/
def Obligations.ResetEstablishesSpecValues : Prop :=
  ResetValues State.reset ∧ ∀ s, ∃ t, exec .reset s = .next t ∧ ResetValues t

/-- R45 with log 6, 7: after `RESET` the unspecified spaces hold no value, and the host's own transactions stay. -/
def Obligations.ResetLeavesUnspecifiedSpacesEmpty : Prop :=
  ∀ s, ∃ t, exec .reset s = .next t ∧
    (∀ a, Memory.read t.input a = none ∧ Memory.read t.prev a = none ∧ Memory.read t.tok a = none ∧
      Memory.read t.out a = none) ∧
    t.inbox = s.inbox ∧ t.rdata = s.rdata

/-- R164, R182: `START` begins a run, or faults `E_SIZE` with no other change, or is ignored. -/
def Obligations.StartBeginsFaultsOrIsIgnored : Prop :=
  ∀ s : State,
    ((s.phase = .idle ∨ s.phase = .done) → s.inSize ≤ Config.params.nMax →
      ∃ t, exec .start s = .next t ∧
        t.phase = .matching ∧ t.size = s.inSize ∧ t.p = 0 ∧ t.ntok = 0 ∧ t.tk = 0 ∧
        (∀ h, readHead t h = none) ∧ t.acc = 0 ∧ t.nbits = 0 ∧ t.flushed = false ∧ t.outLen = 0 ∧
        t.encStage = .hdr ∧
        t.input = s.input ∧ t.inSize = s.inSize ∧ t.err = s.err ∧ t.inbox = s.inbox ∧ t.rdata = s.rdata) ∧
    ((s.phase = .idle ∨ s.phase = .done) → Config.params.nMax < s.inSize →
      exec .start s = .next { s with phase := .error, err := .eSize }) ∧
    ((s.phase = .matching ∨ s.phase = .encoding ∨ s.phase = .error) → exec .start s = .next s)

/-- R23, U11: a write of `CTRL` issues the command of its bits 0 and 1, `RESET` first; nothing is stored. That bits above
bit 1 are ignored, so that a write with none but them set does nothing, is log 24 (DEDUCED from U11). -/
def Obligations.CtrlWriteIssuesCommand : Prop :=
  ∀ s t v, s.due = some (.writeCtrl v, t) →
    (v.testBit 1 = true → step s = exec .reset t) ∧
    (v.testBit 1 = false → v.testBit 0 = true → step s = exec .start t) ∧
    (v.testBit 1 = false → v.testBit 0 = false → step s = .next t)

/-- R186, R181: `raise` writes `ERR` and `PHASE` and nothing else; a `PACK`, a `FLUSH` or an `EMIT` that raises does nothing
else, and the last two raise `E_CAPACITY` alone (the search before the `EMIT` keeps its working registers, log 21); and `ERROR` is left only by `RESET`. -/
def Obligations.RaiseDoesNothingElse : Prop :=
  (∀ (s : State) e, (s.raise e).err = e ∧ (s.raise e).phase = .error ∧
    { s.raise e with err := s.err, phase := s.phase } = s) ∧
  (∀ P v n s u, pack P v n s = .stopped u → ∃ e, u = s.raise e) ∧
  (∀ P s u, flush P s = .stopped u → u = s.raise .eCapacity) ∧
  (∀ P s t, matchStep P s = .ok t → s.phase ≠ .error → t.phase = .error →
    t = { s with phase := .error, err := .eCapacity, scratch := t.scratch }) ∧
  (∀ s t, s.phase = .error → step s = .next t → t.phase = .error ∨ StepRuns .reset s)

/-- R187 (its part on `PACK`), R181: the checks of `PACK` in their order, and what each raises. -/
def Obligations.PackChecksInOrder : Prop :=
  ∀ P v n (s : State),
    (s.flushed = true → pack P v n s = .stopped (s.raise .eMisuse)) ∧
    (s.flushed = false → 16 < n → pack P v n s = .stopped (s.raise .eMisuse)) ∧
    (s.flushed = false → n ≤ 16 → 2 ^ n ≤ v → pack P v n s = .stopped (s.raise .eMisuse)) ∧
    (s.flushed = false → n ≤ 16 → v < 2 ^ n →
      Config.outCapacity P < s.outLen + (s.nbits + n) / 8 → pack P v n s = .stopped (s.raise .eCapacity))

/-- R27: the codes of `ERR`; it is written only on entry to `ERROR` and cleared only by `RESET`. -/
def Obligations.ErrWrittenOnErrorEntryClearedByReset : Prop :=
  (ErrCode.eNone.code = 0 ∧ ErrCode.eSize.code = 1 ∧ ErrCode.eCapacity.code = 2 ∧ ErrCode.eMisuse.code = 3) ∧
  ∀ s t, step s = .next t → t.err ≠ s.err →
    (s.phase ≠ .error ∧ t.phase = .error ∧ t.err ≠ .eNone) ∨ (StepRuns .reset s ∧ t.err = .eNone)

/-- R162: the phase changes only along the rows of the table. -/
def Obligations.PhaseChangesOnlyAsListed : Prop :=
  ∀ s t, step s = .next t → t.phase ≠ s.phase →
    ((s.phase = .idle ∨ s.phase = .done) ∧ StepRuns .start s ∧ s.inSize ≤ Config.params.nMax ∧
      t.phase = .matching) ∨
    ((s.phase = .idle ∨ s.phase = .done) ∧ StepRuns .start s ∧ Config.params.nMax < s.inSize ∧
      t.phase = .error ∧ t.err = .eSize) ∨
    (s.phase = .matching ∧ s.p = s.size ∧ t.phase = .encoding ∧ t.tk = 0 ∧ t.encStage = .hdr) ∨
    (s.phase = .encoding ∧ s.encStage = .flush ∧ t.phase = .done) ∨
    ((s.phase = .matching ∨ s.phase = .encoding) ∧ t.phase = .error ∧ t.err ≠ .eNone) ∨
    (StepRuns .reset s ∧ t.phase = .idle)

/-- R162, R188, R195: what CORE does by itself, with no transaction due: in `MATCH` below `size` the step is one
`MATCH_STEP`, stuck where that is stuck; at `p = size` it passes to `ENCODE`; outside a run CORE waits (log 17). A
transaction that waits comes one step nearer (`tick`, log 3); with none pending `tick` changes nothing. -/
def Obligations.EncodeFollowsMatchAndIdleWaits : Prop :=
  (∀ s : State, s.due = none →
    (s.phase = .matching → s.p < s.size →
      (∀ t, matchStep Config.params s.tick = .ok t → step s = .next t) ∧
      (∀ f, matchStep Config.params s.tick = .error f → step s = .fault f)) ∧
    (s.phase = .matching → s.p = s.size →
      step s = .next { s.tick with phase := .encoding, tk := 0, encStage := .hdr }) ∧
    ((s.phase = .idle ∨ s.phase = .done ∨ s.phase = .error) → step s = .next s.tick)) ∧
  (∀ s : State, { s.tick with inbox := s.inbox } = s) ∧
  (∀ s : State, s.inbox = [] → s.due = none ∧ s.tick = s)

/-! Steps and decoding. -/

/-- R140, R23, log 3, 4: what a step decodes is what it runs. A transaction that is due leaves `inbox`; otherwise the
encoder's stage and the token at `TOK[tk]` say the instruction, and a waiting transaction comes one step nearer. That
the stage `TOKENS` with no token left runs the `EOB` is the model's choice (log 20, DESIGN CHOICE). -/
def Obligations.StepRunsDecodedInstruction : Prop :=
  (∀ s t v i, s.due = some (.writeCtrl v, t) → decodeCtrl v = .ok i → step s = exec i t) ∧
  (∀ s t bits i, s.due = some (.drive bits, t) → decode (encoderPosition t) bits = .ok (i, []) →
    step s = exec i t) ∧
  (∀ s : State, s.due = none → s.phase = .encoding →
    (s.encStage = .hdr → step s = exec .hdr s.tick) ∧
    (s.encStage = .tokens → s.tk < s.ntok → ∀ w i, Memory.read s.tok s.tk = some w →
      decodeTokenWord w = .ok i → step s = exec i s.tick) ∧
    (s.encStage = .tokens → s.ntok ≤ s.tk → step s = exec .eob s.tick) ∧
    (s.encStage = .eob → step s = exec .eob s.tick)) ∧
  (∀ s : State, { s.tick with inbox := s.inbox } = s)

/-- R73, R76, R77, R78, R79, R81, R85, R91: a few words of the table, bit by bit in stream order (words in bit order). -/
def Obligations.TableWordsDecode : Prop :=
  decode .header [true, true, false] = .ok (.hdr, []) ∧
  decode .litLen [false, true, true, true, false, false, false, true] = .ok (.lit8 0x41, []) ∧
  decode .litLen [true, true, false, false, true, false, false, false, false] = .ok (.lit9 144, []) ∧
  decode .litLen [false, false, false, false, false, false, false] = .ok (.eob, []) ∧
  decode .litLen [false, false, false, true, false, false, true, true] = .ok (.len265 1, []) ∧
  decode .litLen [true, true, false, false, false, true, false, true] = .ok (.len285, []) ∧
  decode .dist [false, false, true, false, false, true] = .ok (.dist4 1, []) ∧
  decodeTokenWord 0x000041 = .ok (.tokLit 0x41) ∧
  decodeTokenWord 0x800503 = .ok (.tokMatch 3 5) ∧
  decodeCtrl 1 = .ok .start ∧ decodeCtrl 2 = .ok .reset ∧ decodeCtrl 3 = .ok .reset

/-- R72 to R85, R91: decoding the encoding of a well-formed instruction, at its position and with anything behind it,
gives it back with every operand. -/
def Obligations.DecodeOfEncodeIsIdentity : Prop :=
  ∀ (i : Instr) (rest : List Bool), i.wellFormed = true →
    decode i.position (encodeBits i ++ rest) = .ok (i, rest)

/-- R72 to R85: at every position of the stream and in `TOK`, what the decoder reads is the encoding of what it answers.
(A `CTRL` write has two words for `RESET`.) -/
def Obligations.DecodedBitsAreTheEncoding : Prop :=
  ∀ (pos : Position) (bits rest : List Bool) (i : Instr), pos ≠ .ctrl →
    decode pos bits = .ok (i, rest) → i.position = pos ∧ bits = encodeBits i ++ rest

/-- R87, R88: of the patterns CORE never emits the decoder refuses by name `BFINAL = 0`, `BTYPE` 0, 2, 3, symbols 286
and 287, distance codes 30 and 31, and the illegal token words. Code 284 with extra value 31 is read, as R88 reads it; the
lookup never answers it (R122), and the encoder refuses to write it (the model's choice, log 25). -/
def Obligations.NeverEmittedPatternsRejected : Prop :=
  (∀ t0 t1 rest, decode .header (false :: t0 :: t1 :: rest) = .error .notFinal) ∧
  (∀ rest, decode .header (true :: false :: false :: rest) = .error (.blockType 0)) ∧
  (∀ rest, decode .header (true :: false :: true :: rest) = .error (.blockType 2)) ∧
  (∀ rest, decode .header (true :: true :: true :: rest) = .error (.blockType 3)) ∧
  (∀ n rest, n = 286 ∨ n = 287 →
    decode .litLen (msbBits 8 (0xC0 + (n - 280)) ++ rest) = .error (.unusedLengthSymbol n)) ∧
  (∀ n rest, n = 30 ∨ n = 31 →
    decode .dist (msbBits 5 n ++ rest) = .error (.unusedDistanceCode n)) ∧
  (∀ w : TokenWord, w.getLsbD 23 = false → w.extractLsb' 8 15 ≠ 0#15 →
    decodeTokenWord w = .error .illegalTokenWord) ∧
  (∀ rest, decode .litLen (msbBits 8 0xC4 ++ lsbBits 5 31 ++ rest) = .ok (.len284 31, rest)) ∧
  (∀ len, lenLookup len ≠ some (284, 5, 31)) ∧
  (∀ s, exec (.len284 31) s = .refused .illFormed)

/-- R85: the token word and its fields. Every legal token is read back from its word, and every word with tag 1 is that of a legal
Match. -/
def Obligations.TokenWordRoundTrip : Prop :=
  (∀ b : Byte, (Token.literal b).word.toNat = b.toNat) ∧
  (∀ len dist, (Token.backRef len dist).legal = true →
    (Token.backRef len dist).word.toNat = 2 ^ 23 + (dist - 1) * 2 ^ 8 + (len - 3)) ∧
  (∀ t : Token, t.legal = true → tokenOfWord t.word = some t) ∧
  (∀ w : TokenWord, w.getLsbD 23 = true → ∃ len dist,
    tokenOfWord w = some (.backRef len dist) ∧ (Token.backRef len dist).legal = true ∧
    (Token.backRef len dist).word = w) ∧
  (∀ w : TokenWord, w.getLsbD 23 = false → w.extractLsb' 8 15 ≠ 0#15 → tokenOfWord w = none)

/-! The code tables. -/

/-- R122: `LEN_LOOKUP` answers the one index whose range holds the length, and its extra value fits its field. -/
def Obligations.LenLookupIsTheUniqueRange : Prop :=
  ∀ len, 3 ≤ len → len ≤ 258 → ∃ i, i ≤ 28 ∧
    (lenBase.getD i 0 ≤ len ∧ (i = 28 ∨ len < lenBase.getD (i + 1) 0)) ∧
    (∀ j, j ≤ 28 → lenBase.getD j 0 ≤ len → (j = 28 ∨ len < lenBase.getD (j + 1) 0) → j = i) ∧
    lenLookup len = some (257 + i, lenExtra.getD i 0, len - lenBase.getD i 0) ∧
    len - lenBase.getD i 0 < 2 ^ lenExtra.getD i 0

/-- R123: `DIST_LOOKUP` answers the one index whose range holds the distance, and its extra value fits its field. -/
def Obligations.DistLookupIsTheUniqueRange : Prop :=
  ∀ dist, 1 ≤ dist → dist ≤ 32768 → ∃ j, j ≤ 29 ∧
    (distBase.getD j 0 ≤ dist ∧ (j = 29 ∨ dist < distBase.getD (j + 1) 0)) ∧
    (∀ i, i ≤ 29 → distBase.getD i 0 ≤ dist → (i = 29 ∨ dist < distBase.getD (i + 1) 0) → i = j) ∧
    distLookup dist = some (j, distExtra.getD j 0, dist - distBase.getD j 0) ∧
    dist - distBase.getD j 0 < 2 ^ distExtra.getD j 0

/-- U3: outside their operand ranges the lookups answer nothing. -/
def Obligations.LookupsAreRefusedOutsideTheirRange : Prop :=
  (∀ len, len < 3 ∨ 258 < len → lenLookup len = none) ∧
  (∀ dist, dist < 1 ∨ 32768 < dist → distLookup dist = none)

/-- R84: the bits of every element, and of a match as a whole. -/
def Obligations.ElementWidths : Prop :=
  (encodeBits .hdr).length = 3 ∧ (encodeBits .eob).length = 7 ∧
  (∀ b, (encodeBits (.lit8 b)).length = 8) ∧ (∀ b, (encodeBits (.lit9 b)).length = 9) ∧
  (∀ len code k e, lenLookup len = some (code, k, e) →
    (lengthCodeBits code ++ lsbBits k e).length =
      if len ≤ 10 then 7 else if len ≤ 18 then 7 + 1 else if len ≤ 34 then 7 + 2 else if len ≤ 66 then 7 + 3
      else if len ≤ 114 then 7 + 4 else if len ≤ 130 then 8 + 4 else if len ≤ 257 then 8 + 5 else 8) ∧
  (∀ dist symbol k e, distLookup dist = some (symbol, k, e) →
    (msbBits 5 symbol ++ lsbBits k e).length = 5 + distExtra.getD symbol 0) ∧
  (∀ len dist, (Token.backRef len dist).legal = true →
    12 ≤ (tokenBits (.backRef len dist)).length ∧ (tokenBits (.backRef len dist)).length ≤ 31)

/-! The bit writer. -/

/-- R134: `PACK` keeps the invariant and appends the `n` bits of `v`, least significant first. -/
def Obligations.PackAppendsLowBitsFirst : Prop :=
  ∀ P v n s, n ≤ 16 → v < 2 ^ n → WriterReady P s n →
    ∃ t, pack P v n s = .running t ∧ Appends s t (lsbBits n v)

/-- R142, R10: `PACK_CODE` is the `PACK` of the reversed code, so it appends the bits of `c`, most significant first. -/
def Obligations.PackCodeAppendsHighBitsFirst : Prop :=
  ∀ P c n s, (n = 5 ∨ n = 7 ∨ n = 8 ∨ n = 9) → c < 2 ^ n → WriterReady P s n →
    packCode P c n s = pack P (rev n c) n s ∧ (∀ j, j < n → (rev n c).testBit j = c.testBit (n - 1 - j)) ∧
    ∃ t, packCode P c n s = .running t ∧ Appends s t (msbBits n c)

/-- R135: `FLUSH` completes the last byte with zeros, clears the pending bits and sets `flushed`; with nothing pending it
only sets `flushed`, so a second one changes nothing. -/
def Obligations.FlushCompletesTheLastByte : Prop :=
  ∀ P s, BitWriterInv s → s.outLen + (s.nbits + 7) / 8 ≤ Config.outCapacity P →
    ∃ t, flush P s = .running t ∧
      t.stream = s.stream ++ padBits (8 * s.outLen + s.nbits) ∧
      t.acc = 0 ∧ t.nbits = 0 ∧ t.flushed = true ∧ t.outLen = s.outLen + (s.nbits + 7) / 8 ∧
      (s.nbits = 0 → t = { s with flushed := true }) ∧
      (∀ a, ¬ (s.outLen ≤ a ∧ a < s.outLen + (s.nbits + 7) / 8) → Memory.read t.out a = Memory.read s.out a) ∧
      t = { s with acc := t.acc, nbits := t.nbits, out := t.out, outLen := t.outLen, flushed := t.flushed } ∧
      flush P t = .running t

/-! The elements and the tokens. -/

/-- R141, R73: `HDR` writes `110`. That the stage then is `TOKENS`, or `EOB` at once where there is no token, is the
model's reading of R140 (log 12, DEDUCED). -/
def Obligations.HeaderElementWritesFinalFixed : Prop :=
  ∀ s, atHeader s = true → WriterReady Config.params s 3 →
    ∃ t, exec .hdr s = .next t ∧
      Appends { s with encStage := if s.tk < s.ntok then .tokens else .eob } t [true, true, false] ∧
      (s.acc = 0 → s.nbits = 0 → s.outLen = 0 → t.acc = 0b011 ∧ t.nbits = 3 ∧ t.outLen = 0)

/-- R143, R144: the two literal rows write their codes, most significant bit first, and nothing else changes. -/
def Obligations.LiteralElementsWriteTheirCodes : Prop :=
  (∀ s b, atLitLen s = true → BitVec.toNat b ≤ 143 → WriterReady Config.params s 8 →
    ∃ t, exec (.lit8 b) s = .next t ∧ Appends s t (msbBits 8 (0x30 + b.toNat))) ∧
  (∀ s b, atLitLen s = true → 144 ≤ BitVec.toNat b → WriterReady Config.params s 9 →
    ∃ t, exec (.lit9 b) s = .next t ∧ Appends s t (msbBits 9 (0x190 + (b.toNat - 144))))

/-- R79, R80, R146, R147, for each of `LEN257` to `LEN285`: the row is that of a length, its code goes most significant
bit first and its extra bits least significant first. A distance element is next (R72); the bit `distDue` that says so is
the model's own (log 4, DESIGN CHOICE). -/
def Obligations.LengthElementsWriteCodeAndExtra : Prop :=
  ∀ s i code k e, i.shape = .length code k e → i.wellFormed = true → atLitLen s = true →
    WriterReady Config.params s (lengthCodeBits code ++ lsbBits k e).length →
    lenLookup (lenBaseOf code + e) = some (code, k, e) ∧
    ∃ t, exec i s = .next t ∧ Appends { s with distDue := true } t (lengthCodeBits code ++ lsbBits k e)

/-- R81, R82, R148, R149, for each of `DIST0` to `DIST29`: the row is that of a distance, its 5-bit code goes most
significant bit first and its extra bits least significant first. No distance element is due after it (R72); the bit
`distDue` that says so is the model's own (log 4, DESIGN CHOICE). -/
def Obligations.DistanceElementsWriteCodeAndExtra : Prop :=
  ∀ s i symbol k e, i.shape = .distance symbol k e → atDistance s = true →
    WriterReady Config.params s (5 + k) →
    distLookup (distBaseOf symbol + e) = some (symbol, k, e) ∧
    ∃ t, exec i s = .next t ∧ Appends { s with distDue := false } t (msbBits 5 symbol ++ lsbBits k e)

/-- R150: `EOB` writes seven zeros, and the flush is next. -/
def Obligations.EndOfBlockWritesSevenZeros : Prop :=
  ∀ s, atEob s = true → WriterReady Config.params s 7 →
    ∃ t, exec .eob s = .next t ∧ Appends { s with encStage := .flush } t (List.replicate 7 false)

/-- R140, R145, for `TOK_LIT` and `TOK_MATCH`: the encoder writes the token's elements and takes the next token. That the
stage is `EOB` at once after the last token is the model's reading (log 12, DEDUCED). -/
def Obligations.TokensAreEncodedInOneTurn : Prop :=
  ∀ s (i : Instr) (tok : Token), i.token = some tok → atLitLen s = true →
    WriterReady Config.params s (tokenBits tok).length →
    tok.legal = true ∧
    ∃ t, exec i s = .next t ∧
      Appends { s with tk := s.tk + 1, encStage := if s.tk + 1 < s.ntok then .tokens else .eob } t (tokenBits tok)

/-- R72, R140, R145: a match token is its length element and then its distance element. That these run as instructions of
their own is the model's choice (log 4, DESIGN CHOICE); that the stage is `EOB` at once after the last token is its reading
of R140 (log 12, DEDUCED). -/
def Obligations.MatchTokenRunsItsTwoElements : Prop :=
  ∀ s l d t, atLitLen s = true → exec (.tokMatch l d) s = .next t → t.phase ≠ .error →
    ∃ i j u v code k e symbol k' e',
      lenLookup (l.toNat + 3) = some (code, k, e) ∧ i.shape = .length code k e ∧
      distLookup (d.toNat + 1) = some (symbol, k', e') ∧ j.shape = .distance symbol k' e' ∧
      exec i s = .next u ∧ exec j u = .next v ∧
      t = { v with tk := s.tk + 1, encStage := if s.tk + 1 < s.ntok then .tokens else .eob }

/-- R136, R181: an element or a token that the encoder is driven with after `FLUSH` takes the fault `E_MISUSE`, and
nothing else happens. -/
def Obligations.FlushedEncoderRaisesMisuse : Prop :=
  ∀ s i, i.wellFormed = true → i.position ≠ .ctrl → enabledAt i s = true → s.flushed = true →
    exec i s = .next { s with phase := .error, err := .eMisuse }

/-- R140, R87 with log 18, 25 (the model's choice to refuse): an element out of its place, or with an operand it does not
cover, is refused by name; `START` and `RESET` are never refused (R162, R164, R166). -/
def Obligations.ElementsOutOfPlaceRefused : Prop :=
  (∀ s i, i.wellFormed = true → enabledAt i s = false → exec i s = .refused .notEnabled) ∧
  (∀ s i, i.wellFormed = false → exec i s = .refused .illFormed) ∧
  (∀ s, ∃ t u, exec .start s = .next t ∧ exec .reset s = .next u)

/-- R151, R162: in the stage `FLUSH`, the step flushes and the run is done. That the flush and the move to `DONE` are one
step is the model's reading (log 12, DEDUCED); a waiting transaction comes one step nearer (`tick`, log 3). -/
def Obligations.FlushStageEndsTheRun : Prop :=
  ∀ s, s.due = none → s.phase = .encoding → s.encStage = .flush → BitWriterInv s →
    s.outLen + (s.nbits + 7) / 8 ≤ Config.outCapacity Config.params →
    ∃ u, flush Config.params s.tick = .running u ∧ step s = .next { u with phase := .done }

/-! The host's transactions. -/

/-- R163: outside a run the host writes `IN[i]` and `IN_SIZE`; during a run a write of `IN_SIZE` is ignored. -/
def Obligations.HostLoadWritesOutsideARun : Prop :=
  (∀ s t i b, s.due = some (.writeIn i b, t) → s.phase.running = false → i < Config.params.nMax →
    ∃ u, step s = .next u ∧ Memory.read u.input i = some b ∧
      (∀ j, j ≠ i → Memory.read u.input j = Memory.read s.input j) ∧ u = { t with input := u.input }) ∧
  (∀ s t v, s.due = some (.writeInSize v, t) → s.phase.running = false →
    v < 2 ^ Config.posW Config.params → step s = .next { t with inSize := v }) ∧
  (∀ s t v, s.due = some (.writeInSize v, t) → s.phase.running = true → step s = .next t)

/-- U5, R58 (the model's treatments, log 19, 23): a host write of `IN` is refused during a run and faults beyond
`N_MAX`. -/
def Obligations.HostLoadStopsOutsideItsRange : Prop :=
  ∀ s t i b, s.due = some (.writeIn i b, t) →
    (s.phase.running = true → step s = .refused .hostWriteDuringRun) ∧
    (s.phase.running = false → Config.params.nMax ≤ i → step s = .fault (.outOfRange .input))

/-- R22, R24, R26, R165: the codes of the phases, and what the host reads (`OUT_SIZE` in `IDLE`: log 9). -/
def Obligations.HostReadsReturnTheRegisters : Prop :=
  (Phase.idle.code = 0 ∧ Phase.matching.code = 1 ∧ Phase.encoding.code = 2 ∧ Phase.done.code = 3 ∧
    Phase.error.code = 4) ∧
  ∀ s t,
    (s.due = some (.readCtrl, t) → step s = .next { t with rdata := some 0 }) ∧
    (s.due = some (.readStatus, t) → step s = .next { t with rdata := some s.phase.code.toNat }) ∧
    (s.due = some (.readErr, t) → step s = .next { t with rdata := some s.err.code.toNat }) ∧
    (s.due = some (.readInSize, t) → s.phase.running = false → step s = .next { t with rdata := some s.inSize }) ∧
    (s.due = some (.readOutSize, t) → s.phase = .idle ∨ s.phase = .done →
      step s = .next { t with rdata := some s.outLen }) ∧
    (∀ i b, s.due = some (.readOut i, t) → s.phase = .done → i < s.outLen →
      Memory.read s.out i = some b → step s = .next { t with rdata := some b.toNat })

/-- R66, U6: in every state of the invariant and every phase, a host read goes on, changes nothing of CORE, and is
idempotent: the same read made again returns the same value (log 9). -/
def Obligations.HostReadsHaveNoSideEffect : Prop :=
  ∀ s t r, Inv Config.params s → s.due = some (r, t) →
    (r = .readCtrl ∨ r = .readStatus ∨ r = .readInSize ∨ r = .readOutSize ∨ r = .readErr ∨
      ∃ i, r = .readOut i) →
    ∃ v, step s = .next { t with rdata := some v } ∧
      step ({ t with rdata := some v }.request r) = .next { t with rdata := some v }

/-- R22, R51, R208: CORE never writes `IN` or `IN_SIZE`; during a run only `RESET` changes them. -/
def Obligations.InputChangesOnlyByTheHost : Prop :=
  ∀ s t, step s = .next t → (t.input ≠ s.input ∨ t.inSize ≠ s.inSize) →
    StepRuns .reset s ∨
    (s.phase.running = false ∧ ∃ r u, s.due = some (r, u) ∧
      ((∃ i b, r = .writeIn i b) ∨ ∃ v, r = .writeInSize v))

/-- R54, R55: no token of `TOK` and no byte of `OUT` is rewritten; `TOK` grows in `MATCH` alone, `OUT` in `ENCODE`. -/
def Obligations.TokensAndOutputAreAppendOnly : Prop :=
  ∀ s t, step s = .next t → ¬ StepRuns .start s → ¬ StepRuns .reset s →
    (∀ i, i < s.ntok → Memory.read t.tok i = Memory.read s.tok i) ∧
    (∀ i, i < s.outLen → Memory.read t.out i = Memory.read s.out i) ∧
    s.ntok ≤ t.ntok ∧ s.outLen ≤ t.outLen ∧
    (t.tok ≠ s.tok → s.phase = .matching) ∧ (t.out ≠ s.out → s.phase = .encoding)

/-! The matcher. -/

/-- R103, R111: with fewer than 3 bytes left there is no search and nothing is inserted; the step emits the literal. -/
def Obligations.ShortTailIsEmittedAsLiterals : Prop :=
  ∀ P (s : State) b, s.p < s.size → s.size < s.p + 3 → Memory.read s.input s.p = some b → s.ntok < P.nMax →
    ∃ t, matchStep P s = .ok t ∧ Memory.read t.tok s.ntok = some (Token.literal b).word ∧
      (∀ i, i ≠ s.ntok → Memory.read t.tok i = Memory.read s.tok i) ∧
      t.ntok = s.ntok + 1 ∧ t.p = s.p + 1 ∧
      t = { s with tok := t.tok, ntok := t.ntok, p := t.p, scratch := t.scratch }

/-- R108: one insertion links the position to the old head of its chain and becomes the head; the two last positions are
never inserted. -/
def Obligations.InsertLinksToTheOldHead : Prop :=
  ∀ (P : Config.Params) (s : State) pos b0 b1 b2, pos < P.nMax →
    (pos + 3 ≤ s.size → Memory.read s.input pos = some b0 → Memory.read s.input (pos + 1) = some b1 →
      Memory.read s.input (pos + 2) = some b2 →
      ∃ t, insertAt P pos s = .ok t ∧
        Memory.read t.prev pos = some (readHead s (P.hash b0 b1 b2)) ∧
        readHead t (P.hash b0 b1 b2) = some pos ∧
        (∀ q, q ≠ pos → Memory.read t.prev q = Memory.read s.prev q) ∧
        (∀ h, h ≠ P.hash b0 b1 b2 → readHead t h = readHead s h) ∧
        t = { s with prev := t.prev, head := t.head, scratch := t.scratch }) ∧
    (s.size < pos + 3 → insertAt P pos s = .ok s)

/-- R114: in every state of the invariant with the input loaded, for every `HASH` and `N_MAX`, the step goes on and
emits a valid token, and the tokens go on replaying the input. -/
def Obligations.MatchStepEmitsAValidToken : Prop :=
  ∀ P s, Inv P s → Loaded s → s.p < s.size →
    ∃ (t : State) (tok : Token), matchStep P s = .ok t ∧ tok.legal = true ∧
      Memory.read t.tok s.ntok = some tok.word ∧ t.ntok = s.ntok + 1 ∧
      t.p = s.p + covers tok ∧ t.p ≤ s.size ∧ s.p < t.p ∧
      (∀ b, tok = .literal b → b = byteAt s s.p) ∧
      (∀ len dist, tok = .backRef len dist → dist ≤ s.p ∧
        ∀ i, i < len → byteAt s (s.p - dist + i) = byteAt s (s.p + i)) ∧
      (∀ ts bs bs', s.tokens = some ts → s.inputTo s.p = some bs → replay ts = some bs →
        s.inputTo t.p = some bs' → t.tokens = some (ts ++ [tok]) ∧ replay (ts ++ [tok]) = some bs') ∧
      t = { s with tok := t.tok, ntok := t.ntok, p := t.p, scratch := t.scratch, head := t.head, prev := t.prev }

/-- R30, R31, R115: `HEAD` and `PREV` hold the chains exactly, at the start of a run and after every step. -/
def Obligations.HashChainsStayExact : Prop :=
  (∀ P (s : State), ChainsExact P s.beginRun) ∧
  ∀ P s t, Inv P s → Loaded s → ChainsExact P s → s.p < s.size → matchStep P s = .ok t → ChainsExact P t

/-- R113: the closed form of a step. -/
def Obligations.MatchStepHasTheClosedForm : Prop :=
  ∀ P s, Inv P s → Loaded s → ChainsExact P s → s.p < s.size →
    ∃ (t : State) (tok : Token), matchStep P s = .ok t ∧ Memory.read t.tok s.ntok = some tok.word ∧ tok.legal = true ∧
      ((s.size < s.p + 3 ∨
          ∀ q ∈ candidates P s, commonPrefix s q s.p (min 258 (s.size - s.p)) < 3) →
        tok = .literal (byteAt s s.p)) ∧
      (∀ q ∈ candidates P s, s.p + 3 ≤ s.size →
        3 ≤ commonPrefix s q s.p (min 258 (s.size - s.p)) →
        (∀ r ∈ candidates P s,
          commonPrefix s r s.p (min 258 (s.size - s.p)) < commonPrefix s q s.p (min 258 (s.size - s.p)) ∨
          (commonPrefix s r s.p (min 258 (s.size - s.p)) = commonPrefix s q s.p (min 258 (s.size - s.p)) ∧ r ≤ q)) →
        tok = .backRef (commonPrefix s q s.p (min 258 (s.size - s.p))) (s.p - q))

/-- R28, R101: no working register carries a value from one step to the next. -/
def Obligations.ScratchRegistersCarryNothing : Prop :=
  ∀ P (s : State) (sc : Scratch),
    (matchStep P { s with scratch := sc }).map (fun t => { t with scratch := s.scratch }) =
      (matchStep P s).map (fun t => { t with scratch := s.scratch })

/-- R117: for an input of at most 131 bytes the TokenStream is the same for every choice of `HASH`. -/
def Obligations.ShortInputsIgnoreTheHash : Prop :=
  ∀ (P P' : Config.Params) (s : State) n, P.nMax = P'.nMax → s.inSize ≤ P.nMax → s.inSize ≤ 131 →
    Loaded s.beginRun →
    (matchRun P n s.beginRun).map State.tokens = (matchRun P' n s.beginRun).map State.tokens

/-! Invariants. -/

/-- The invariant holds in the reset state, whose working registers are the model's choice (log 5) and play no part. -/
def Obligations.ResetMeetsTheInvariant : Prop := Inv Config.params State.reset

/-- R32, R50, R54, R55, R115, R116, R130: every step, whatever the host does, keeps the invariant. -/
def Obligations.StepKeepsTheInvariant : Prop :=
  ∀ s t, Inv Config.params s → step s = .next t → Inv Config.params t

/-- R37: every step keeps the replay invariant. -/
def Obligations.StepKeepsTheReplayInvariant : Prop :=
  ∀ s t, Inv Config.params s → ReplayInv s → step s = .next t → ReplayInv t

/-! The block and the run. -/

/-- R155: a block of tokens that cover `n` bytes has at most `10 + 9 * n` bits before its padding. -/
def Obligations.BlockBitsAreBounded : Prop :=
  (∀ ts : List Token, (∀ t ∈ ts, t.legal = true) → (blockBody ts).length ≤ 10 + 9 * covered ts) ∧
  (∀ ts : List Token, (∀ t ∈ ts, t.legal = true) →
    (blockBits ts).length = 8 * (((blockBody ts).length + 7) / 8) ∧
    ((blockBody ts).length + 7) / 8 ≤ (10 + 9 * covered ts + 7) / 8) ∧
  (blockBody []).length = 10 ∧ (blockBits []).length = 16

/-- R88, R156: reading a block back gives the replay of its tokens and leaves only the padding. -/
def Obligations.InflateInvertsTheBlock : Prop :=
  ∀ (ts : List Token) (S : List Byte), (∀ t ∈ ts, t.legal = true) → replay ts = some S →
    inflate (blockBits ts) = .ok (S, padBits (blockBody ts).length)

/-- R140, R156, R162: from the start of `ENCODE`, `ntok + 3` steps write the block of the tokens and end the run. That
each of the `ntok + 3` operations of R162 is one step is the model's reading (log 12, DEDUCED). -/
def Obligations.EncodePhaseWritesTheBlock : Prop :=
  ∀ s ts, s.phase = .encoding → s.encStage = .hdr → s.inbox = [] → s.distDue = false → s.tk = 0 →
    s.acc = 0 → s.nbits = 0 → s.outLen = 0 → s.flushed = false → s.tokens = some ts →
    covered ts ≤ Config.params.nMax →
    ∃ t, RunsTo (s.ntok + 3) s t ∧ t.phase = .done ∧ t.err = s.err ∧ t.tk = s.ntok ∧ t.flushed = true ∧
      bitsOfBytes t.outBytes = blockBits ts

/-- R168, R162, R180: every input ends in `DONE`, with the block of the matcher's own TokenStream, which replays the
input. The count of `2 * ntok + 4` steps takes the transition from `MATCH` to `ENCODE` as a step and each operation as one
(log 12, DEDUCED). -/
def Obligations.EveryRunEndsDone : Prop :=
  ∀ s S, ReadyToStart Config.params s S →
    ∃ u v t ts, exec .start s = .next u ∧
      matchRun Config.params S.length u = .ok v ∧ v.p = v.size ∧ v.tokens = some ts ∧
      RunsTo (2 * t.ntok + 4) u t ∧ t.phase = .done ∧ t.err = s.err ∧ t.ntok ≤ S.length ∧
      t.tokens = some ts ∧ replay ts = some S ∧ bitsOfBytes t.outBytes = blockBits ts

/-- R170: the round trip. What the host reads after a run inflates to the input, for every input. -/
def Obligations.CompressThenInflateIsIdentity : Prop :=
  ∀ s S, ReadyToStart Config.params s S →
    ∃ n u t pad, exec .start s = .next u ∧ RunsTo n u t ∧ t.phase = .done ∧
      inflate (bitsOfBytes t.outBytes) = .ok (S, pad) ∧ pad.length ≤ 7

/-- R156, R111: the empty input gives the two bytes `03 00`. The count of 4 steps rests on log 12 (DEDUCED). -/
def Obligations.EmptyInputGivesTwoBytes : Prop :=
  ∀ s, ReadyToStart Config.params s [] →
    ∃ u t, exec .start s = .next u ∧ RunsTo 4 u t ∧ t.phase = .done ∧ t.ntok = 0 ∧ t.outBytes = [0x03, 0x00]

/-- R202, R170 (Determinism): whatever ran before, two runs on the same input give the same bytes. -/
def Obligations.RunsOfTheSameInputAgree : Prop :=
  ∀ s s' S, ReadyToStart Config.params s S → ReadyToStart Config.params s' S →
    ∃ n u u' t t', exec .start s = .next u ∧ exec .start s' = .next u' ∧ RunsTo n u t ∧ RunsTo n u' t' ∧
      t.phase = .done ∧ t'.phase = .done ∧ t.outBytes = t'.outBytes ∧ t.tokens = t'.tokens

/-- R22, U11: a host write of the read-only registers `STATUS`, `OUT_SIZE` and `ERR` goes on and changes nothing. -/
def Obligations.ReadOnlyRegisterWritesAreIgnored : Prop :=
  ∀ s t r v, s.due = some (r, t) → (r = .writeStatus v ∨ r = .writeOutSize v ∨ r = .writeErr v) → step s = .next t

/-- R181: when `FLUSH` and `EMIT` raise `E_CAPACITY`: bits pending and no room in `OUT` for one more byte; a token to
append and `TOK` full. The premises on the chains and on `IN` let the search before the `EMIT` go on in a state that no run
reaches (R34); its working registers stay (log 21, DEDUCED). -/
def Obligations.FlushAndEmitRaiseCapacity : Prop :=
  (∀ P s, 0 < s.nbits → Config.outCapacity P < s.outLen + 1 → flush P s = .stopped (s.raise .eCapacity)) ∧
  (∀ P s, ChainInv s → Loaded s → s.p < s.size → s.size ≤ P.nMax → Config.tokCapacity P ≤ s.ntok →
    ∃ t, matchStep P s = .ok t ∧ t = { s with phase := .error, err := .eCapacity, scratch := t.scratch })
end

