-- ==== Sys2Proof/Laws/Bits.lean ====
section
/-! SUPPORT. The laws of bit lists: lengths, reading a field back, bit reversal (R10), the first bits of a list. -/

namespace Sys2Proof

@[simp] theorem lsbBits_length (n v : Nat) : (lsbBits n v).length = n := by simp [lsbBits]

@[simp] theorem msbBits_length (n v : Nat) : (msbBits n v).length = n := by simp [msbBits]

@[simp] theorem lsbBits_zero (v : Nat) : lsbBits 0 v = [] := rfl

/-- The low bits of a value are its lowest bit and then those of its half. -/
theorem lsbBits_succ (n v : Nat) : lsbBits (n + 1) v = v.testBit 0 :: lsbBits n (v / 2) := by
  simp [lsbBits, List.range_succ_eq_map, Nat.testBit_succ]

/-- Fields written one after the other: the low `m` bits, then the next `n`. -/
theorem lsbBits_add (m n v : Nat) : lsbBits (m + n) v = lsbBits m v ++ lsbBits n (v / 2 ^ m) := by
  induction m generalizing v with
  | zero => simp
  | succ m ih =>
    rw [show m + 1 + n = (m + n) + 1 by omega, lsbBits_succ, lsbBits_succ, ih]
    simp [Nat.div_div_eq_div_mul, Nat.pow_succ, Nat.mul_comm]

/-- The bits below `n` are the same in values that agree below `2 ^ n`. -/
theorem lsbBits_congr (n v w : Nat) (h : ∀ k, k < n → v.testBit k = w.testBit k) : lsbBits n v = lsbBits n w := by
  unfold lsbBits
  apply List.map_congr_left
  intro k hk
  exact h k (List.mem_range.mp hk)

/-- `getfield` reads back what `lsb_first` wrote (R88, R156). -/
theorem natOfLsb_lsbBits (n v : Nat) : natOfLsb (lsbBits n v) = v % 2 ^ n := by
  induction n generalizing v with
  | zero => simp [natOfLsb, Nat.mod_one]
  | succ n ih =>
    rw [lsbBits_succ, natOfLsb, ih, Nat.pow_succ', Nat.mod_mul]
    congr 1
    rcases Nat.mod_two_eq_zero_or_one v with h | h <;> simp [Nat.testBit_zero, h]

/-- Every bit list is the field of the number it stands for. -/
theorem lsbBits_natOfLsb (bs : List Bool) : lsbBits bs.length (natOfLsb bs) = bs := by
  induction bs with
  | nil => rfl
  | cons b bs ih =>
    rw [List.length_cons, lsbBits_succ, natOfLsb]
    have h1 : (b.toNat + 2 * natOfLsb bs).testBit 0 = b := by
      cases b <;> simp [Nat.testBit_zero, Nat.add_mod]
    have h2 : (b.toNat + 2 * natOfLsb bs) / 2 = natOfLsb bs := by cases b <;> simp; omega
    rw [h1, h2, ih]

theorem natOfLsb_lt (bs : List Bool) : natOfLsb bs < 2 ^ bs.length := by
  induction bs with
  | nil => simp [natOfLsb]
  | cons b bs ih =>
    have : b.toNat ≤ 1 := Bool.toNat_le b
    simp only [natOfLsb, List.length_cons, Nat.pow_succ]
    omega

/-- Most significant first is least significant first, backwards. -/
theorem msbBits_eq_reverse (n v : Nat) : msbBits n v = (lsbBits n v).reverse := by
  apply List.ext_getElem
  · simp
  · intro k h1 h2
    simp only [msbBits_length] at h1
    simp [msbBits, lsbBits, List.getElem_reverse]

/-- `rev_n` is an `n`-bit value (R10). -/
theorem rev_lt (n v : Nat) : rev n v < 2 ^ n := by
  have := natOfLsb_lt (msbBits n v)
  simpa [rev] using this

/-- The bits of `rev_n(v)`, least significant first, are those of `v`, most significant first (R10, R142). -/
theorem lsbBits_rev (n v : Nat) : lsbBits n (rev n v) = msbBits n v := by
  have := lsbBits_natOfLsb (msbBits n v)
  simpa [rev] using this

theorem natOfMsbFrom_append (c : Nat) (xs ys : List Bool) :
    natOfMsbFrom c (xs ++ ys) = natOfMsbFrom (natOfMsbFrom c xs) ys := by
  induction xs generalizing c with
  | nil => rfl
  | cons x xs ih => simp [natOfMsbFrom, ih]

/-- `getcode` is `getfield` of the list backwards (R88). -/
theorem natOfMsb_eq_reverse (bs : List Bool) : natOfMsb bs = natOfLsb bs.reverse := by
  have h : ∀ bs : List Bool, natOfMsb bs.reverse = natOfLsb bs := by
    intro bs
    induction bs with
    | nil => rfl
    | cons b bs ih =>
      rw [List.reverse_cons, natOfMsb, natOfMsbFrom_append]
      simp only [natOfMsbFrom, natOfLsb]
      rw [show natOfMsbFrom 0 bs.reverse = natOfMsb bs.reverse from rfl, ih]
      omega
  simpa using h bs.reverse

/-- `getcode` reads back what `msb_first` wrote (R88, R156). -/
theorem natOfMsb_msbBits (n v : Nat) : natOfMsb (msbBits n v) = v % 2 ^ n := by
  rw [natOfMsb_eq_reverse, msbBits_eq_reverse, List.reverse_reverse, natOfLsb_lsbBits]

/-- The first bits of a list that begins with them. -/
theorem takeBits_append (xs rest : List Bool) : takeBits xs.length (xs ++ rest) = some (xs, rest) := by
  induction xs with
  | nil => rfl
  | cons x xs ih => simp [takeBits, ih]

theorem takeBits_eq_some (n : Nat) (bits xs rest : List Bool) (h : takeBits n bits = some (xs, rest)) :
    xs.length = n ∧ bits = xs ++ rest := by
  induction n generalizing bits xs with
  | zero => simp [takeBits] at h; obtain ⟨rfl, rfl⟩ := h; simp
  | succ n ih =>
    cases bits with
    | nil => simp [takeBits] at h
    | cons b bits =>
      simp only [takeBits, Option.map_eq_some_iff, Prod.mk.injEq, Prod.exists] at h
      obtain ⟨ys, r, h1, rfl, rfl⟩ := h
      obtain ⟨h2, rfl⟩ := ih bits ys h1
      simp [h2]

end Sys2Proof
end

