-- ==== Sys2Proof/Laws/State.lean ====
section
/-! SUPPORT. Beside State: for each named update of a state, what each field holds after it. -/

namespace Sys2Proof.Machine

@[simp] theorem State.raise_phase (s : State) (e : ErrCode) : (s.raise e).phase = .error := rfl
@[simp] theorem State.raise_inSize (s : State) (e : ErrCode) : (s.raise e).inSize = s.inSize := rfl
@[simp] theorem State.raise_err (s : State) (e : ErrCode) : (s.raise e).err = e := rfl
@[simp] theorem State.raise_size (s : State) (e : ErrCode) : (s.raise e).size = s.size := rfl
@[simp] theorem State.raise_p (s : State) (e : ErrCode) : (s.raise e).p = s.p := rfl
@[simp] theorem State.raise_ntok (s : State) (e : ErrCode) : (s.raise e).ntok = s.ntok := rfl
@[simp] theorem State.raise_scratch (s : State) (e : ErrCode) : (s.raise e).scratch = s.scratch := rfl
@[simp] theorem State.raise_head (s : State) (e : ErrCode) : (s.raise e).head = s.head := rfl
@[simp] theorem State.raise_prev (s : State) (e : ErrCode) : (s.raise e).prev = s.prev := rfl
@[simp] theorem State.raise_input (s : State) (e : ErrCode) : (s.raise e).input = s.input := rfl
@[simp] theorem State.raise_tok (s : State) (e : ErrCode) : (s.raise e).tok = s.tok := rfl
@[simp] theorem State.raise_out (s : State) (e : ErrCode) : (s.raise e).out = s.out := rfl
@[simp] theorem State.raise_acc (s : State) (e : ErrCode) : (s.raise e).acc = s.acc := rfl
@[simp] theorem State.raise_nbits (s : State) (e : ErrCode) : (s.raise e).nbits = s.nbits := rfl
@[simp] theorem State.raise_flushed (s : State) (e : ErrCode) : (s.raise e).flushed = s.flushed := rfl
@[simp] theorem State.raise_outLen (s : State) (e : ErrCode) : (s.raise e).outLen = s.outLen := rfl
@[simp] theorem State.raise_tk (s : State) (e : ErrCode) : (s.raise e).tk = s.tk := rfl
@[simp] theorem State.raise_encStage (s : State) (e : ErrCode) : (s.raise e).encStage = s.encStage := rfl
@[simp] theorem State.raise_distDue (s : State) (e : ErrCode) : (s.raise e).distDue = s.distDue := rfl
@[simp] theorem State.raise_inbox (s : State) (e : ErrCode) : (s.raise e).inbox = s.inbox := rfl
@[simp] theorem State.raise_rdata (s : State) (e : ErrCode) : (s.raise e).rdata = s.rdata := rfl
@[simp] theorem State.raise_free (s : State) (e : ErrCode) : (s.raise e).free = s.free := rfl

@[simp] theorem State.returns_phase (s : State) (v : Nat) : (s.returns v).phase = s.phase := rfl
@[simp] theorem State.returns_inSize (s : State) (v : Nat) : (s.returns v).inSize = s.inSize := rfl
@[simp] theorem State.returns_err (s : State) (v : Nat) : (s.returns v).err = s.err := rfl
@[simp] theorem State.returns_size (s : State) (v : Nat) : (s.returns v).size = s.size := rfl
@[simp] theorem State.returns_p (s : State) (v : Nat) : (s.returns v).p = s.p := rfl
@[simp] theorem State.returns_ntok (s : State) (v : Nat) : (s.returns v).ntok = s.ntok := rfl
@[simp] theorem State.returns_scratch (s : State) (v : Nat) : (s.returns v).scratch = s.scratch := rfl
@[simp] theorem State.returns_head (s : State) (v : Nat) : (s.returns v).head = s.head := rfl
@[simp] theorem State.returns_prev (s : State) (v : Nat) : (s.returns v).prev = s.prev := rfl
@[simp] theorem State.returns_input (s : State) (v : Nat) : (s.returns v).input = s.input := rfl
@[simp] theorem State.returns_tok (s : State) (v : Nat) : (s.returns v).tok = s.tok := rfl
@[simp] theorem State.returns_out (s : State) (v : Nat) : (s.returns v).out = s.out := rfl
@[simp] theorem State.returns_acc (s : State) (v : Nat) : (s.returns v).acc = s.acc := rfl
@[simp] theorem State.returns_nbits (s : State) (v : Nat) : (s.returns v).nbits = s.nbits := rfl
@[simp] theorem State.returns_flushed (s : State) (v : Nat) : (s.returns v).flushed = s.flushed := rfl
@[simp] theorem State.returns_outLen (s : State) (v : Nat) : (s.returns v).outLen = s.outLen := rfl
@[simp] theorem State.returns_tk (s : State) (v : Nat) : (s.returns v).tk = s.tk := rfl
@[simp] theorem State.returns_encStage (s : State) (v : Nat) : (s.returns v).encStage = s.encStage := rfl
@[simp] theorem State.returns_distDue (s : State) (v : Nat) : (s.returns v).distDue = s.distDue := rfl
@[simp] theorem State.returns_inbox (s : State) (v : Nat) : (s.returns v).inbox = s.inbox := rfl
@[simp] theorem State.returns_rdata (s : State) (v : Nat) : (s.returns v).rdata = some v := rfl
@[simp] theorem State.returns_free (s : State) (v : Nat) : (s.returns v).free = s.free := rfl

/-! What is the host's plays no part in the state of CORE. -/

@[simp] theorem State.returns_withoutHost (s : State) (v : Nat) : (s.returns v).withoutHost = s.withoutHost := rfl
@[simp] theorem State.returnsFree_withoutHost (s : State) (w : Nat) (r : Request) :
    (s.returnsFree w r).withoutHost = s.withoutHost := rfl
@[simp] theorem State.request_withoutHost (s : State) (r : Request) : (s.request r).withoutHost = s.withoutHost := rfl

@[simp] theorem State.returnsFree_phase (s : State) (w : Nat) (r : Request) : (s.returnsFree w r).phase = s.phase := rfl
@[simp] theorem State.returnsFree_inSize (s : State) (w : Nat) (r : Request) : (s.returnsFree w r).inSize = s.inSize := rfl
@[simp] theorem State.returnsFree_err (s : State) (w : Nat) (r : Request) : (s.returnsFree w r).err = s.err := rfl
@[simp] theorem State.returnsFree_size (s : State) (w : Nat) (r : Request) : (s.returnsFree w r).size = s.size := rfl
@[simp] theorem State.returnsFree_p (s : State) (w : Nat) (r : Request) : (s.returnsFree w r).p = s.p := rfl
@[simp] theorem State.returnsFree_ntok (s : State) (w : Nat) (r : Request) : (s.returnsFree w r).ntok = s.ntok := rfl
@[simp] theorem State.returnsFree_scratch (s : State) (w : Nat) (r : Request) : (s.returnsFree w r).scratch = s.scratch := rfl
@[simp] theorem State.returnsFree_head (s : State) (w : Nat) (r : Request) : (s.returnsFree w r).head = s.head := rfl
@[simp] theorem State.returnsFree_prev (s : State) (w : Nat) (r : Request) : (s.returnsFree w r).prev = s.prev := rfl
@[simp] theorem State.returnsFree_input (s : State) (w : Nat) (r : Request) : (s.returnsFree w r).input = s.input := rfl
@[simp] theorem State.returnsFree_tok (s : State) (w : Nat) (r : Request) : (s.returnsFree w r).tok = s.tok := rfl
@[simp] theorem State.returnsFree_out (s : State) (w : Nat) (r : Request) : (s.returnsFree w r).out = s.out := rfl
@[simp] theorem State.returnsFree_acc (s : State) (w : Nat) (r : Request) : (s.returnsFree w r).acc = s.acc := rfl
@[simp] theorem State.returnsFree_nbits (s : State) (w : Nat) (r : Request) : (s.returnsFree w r).nbits = s.nbits := rfl
@[simp] theorem State.returnsFree_flushed (s : State) (w : Nat) (r : Request) : (s.returnsFree w r).flushed = s.flushed := rfl
@[simp] theorem State.returnsFree_outLen (s : State) (w : Nat) (r : Request) : (s.returnsFree w r).outLen = s.outLen := rfl
@[simp] theorem State.returnsFree_tk (s : State) (w : Nat) (r : Request) : (s.returnsFree w r).tk = s.tk := rfl
@[simp] theorem State.returnsFree_encStage (s : State) (w : Nat) (r : Request) : (s.returnsFree w r).encStage = s.encStage := rfl
@[simp] theorem State.returnsFree_distDue (s : State) (w : Nat) (r : Request) : (s.returnsFree w r).distDue = s.distDue := rfl
@[simp] theorem State.returnsFree_inbox (s : State) (w : Nat) (r : Request) : (s.returnsFree w r).inbox = s.inbox := rfl
@[simp] theorem State.returnsFree_rdata (s : State) (w : Nat) (r : Request) : (s.returnsFree w r).rdata = some (Config.freeRead s.withoutHost r % 2 ^ w) := rfl
@[simp] theorem State.returnsFree_free (s : State) (w : Nat) (r : Request) : (s.returnsFree w r).free = s.free := rfl

@[simp] theorem State.enterEncode_phase (s : State) : s.enterEncode.phase = .encoding := rfl
@[simp] theorem State.enterEncode_inSize (s : State) : s.enterEncode.inSize = s.inSize := rfl
@[simp] theorem State.enterEncode_err (s : State) : s.enterEncode.err = s.err := rfl
@[simp] theorem State.enterEncode_size (s : State) : s.enterEncode.size = s.size := rfl
@[simp] theorem State.enterEncode_p (s : State) : s.enterEncode.p = s.p := rfl
@[simp] theorem State.enterEncode_ntok (s : State) : s.enterEncode.ntok = s.ntok := rfl
@[simp] theorem State.enterEncode_scratch (s : State) : s.enterEncode.scratch = s.scratch := rfl
@[simp] theorem State.enterEncode_head (s : State) : s.enterEncode.head = s.head := rfl
@[simp] theorem State.enterEncode_prev (s : State) : s.enterEncode.prev = s.prev := rfl
@[simp] theorem State.enterEncode_input (s : State) : s.enterEncode.input = s.input := rfl
@[simp] theorem State.enterEncode_tok (s : State) : s.enterEncode.tok = s.tok := rfl
@[simp] theorem State.enterEncode_out (s : State) : s.enterEncode.out = s.out := rfl
@[simp] theorem State.enterEncode_acc (s : State) : s.enterEncode.acc = s.acc := rfl
@[simp] theorem State.enterEncode_nbits (s : State) : s.enterEncode.nbits = s.nbits := rfl
@[simp] theorem State.enterEncode_flushed (s : State) : s.enterEncode.flushed = s.flushed := rfl
@[simp] theorem State.enterEncode_outLen (s : State) : s.enterEncode.outLen = s.outLen := rfl
@[simp] theorem State.enterEncode_tk (s : State) : s.enterEncode.tk = 0 := rfl
@[simp] theorem State.enterEncode_encStage (s : State) : s.enterEncode.encStage = .hdr := rfl
@[simp] theorem State.enterEncode_distDue (s : State) : s.enterEncode.distDue = s.distDue := rfl
@[simp] theorem State.enterEncode_inbox (s : State) : s.enterEncode.inbox = s.inbox := rfl
@[simp] theorem State.enterEncode_rdata (s : State) : s.enterEncode.rdata = s.rdata := rfl
@[simp] theorem State.enterEncode_free (s : State) : s.enterEncode.free = s.free := rfl

@[simp] theorem State.beginRun_phase (s : State) : s.beginRun.phase = .matching := rfl
@[simp] theorem State.beginRun_inSize (s : State) : s.beginRun.inSize = s.inSize := rfl
@[simp] theorem State.beginRun_err (s : State) : s.beginRun.err = s.err := rfl
@[simp] theorem State.beginRun_size (s : State) : s.beginRun.size = s.inSize := rfl
@[simp] theorem State.beginRun_p (s : State) : s.beginRun.p = 0 := rfl
@[simp] theorem State.beginRun_ntok (s : State) : s.beginRun.ntok = 0 := rfl
@[simp] theorem State.beginRun_scratch (s : State) : s.beginRun.scratch = freeScratch s.free := rfl
@[simp] theorem State.beginRun_head (s : State) : s.beginRun.head = [] := rfl
@[simp] theorem State.beginRun_prev (s : State) : s.beginRun.prev = [] := rfl
@[simp] theorem State.beginRun_input (s : State) : s.beginRun.input = s.input := rfl
@[simp] theorem State.beginRun_tok (s : State) : s.beginRun.tok = [] := rfl
@[simp] theorem State.beginRun_out (s : State) : s.beginRun.out = [] := rfl
@[simp] theorem State.beginRun_acc (s : State) : s.beginRun.acc = 0 := rfl
@[simp] theorem State.beginRun_nbits (s : State) : s.beginRun.nbits = 0 := rfl
@[simp] theorem State.beginRun_flushed (s : State) : s.beginRun.flushed = false := rfl
@[simp] theorem State.beginRun_outLen (s : State) : s.beginRun.outLen = 0 := rfl
@[simp] theorem State.beginRun_tk (s : State) : s.beginRun.tk = 0 := rfl
@[simp] theorem State.beginRun_encStage (s : State) : s.beginRun.encStage = .hdr := rfl
@[simp] theorem State.beginRun_distDue (s : State) : s.beginRun.distDue = false := rfl
@[simp] theorem State.beginRun_inbox (s : State) : s.beginRun.inbox = s.inbox := rfl
@[simp] theorem State.beginRun_rdata (s : State) : s.beginRun.rdata = s.rdata := rfl
@[simp] theorem State.beginRun_free (s : State) : s.beginRun.free = s.free + 1 := rfl

@[simp] theorem State.resetCore_phase (s : State) : s.resetCore.phase = .idle := rfl
@[simp] theorem State.resetCore_inSize (s : State) : s.resetCore.inSize = 0 := rfl
@[simp] theorem State.resetCore_err (s : State) : s.resetCore.err = .eNone := rfl
@[simp] theorem State.resetCore_size (s : State) : s.resetCore.size = 0 := rfl
@[simp] theorem State.resetCore_p (s : State) : s.resetCore.p = 0 := rfl
@[simp] theorem State.resetCore_ntok (s : State) : s.resetCore.ntok = 0 := rfl
@[simp] theorem State.resetCore_scratch (s : State) : s.resetCore.scratch = freeScratch s.free := rfl
@[simp] theorem State.resetCore_head (s : State) : s.resetCore.head = [] := rfl
@[simp] theorem State.resetCore_prev (s : State) : s.resetCore.prev = [] := rfl
@[simp] theorem State.resetCore_input (s : State) : s.resetCore.input = [] := rfl
@[simp] theorem State.resetCore_tok (s : State) : s.resetCore.tok = [] := rfl
@[simp] theorem State.resetCore_out (s : State) : s.resetCore.out = [] := rfl
@[simp] theorem State.resetCore_acc (s : State) : s.resetCore.acc = 0 := rfl
@[simp] theorem State.resetCore_nbits (s : State) : s.resetCore.nbits = 0 := rfl
@[simp] theorem State.resetCore_flushed (s : State) : s.resetCore.flushed = false := rfl
@[simp] theorem State.resetCore_outLen (s : State) : s.resetCore.outLen = 0 := rfl
@[simp] theorem State.resetCore_tk (s : State) : s.resetCore.tk = 0 := rfl
@[simp] theorem State.resetCore_encStage (s : State) : s.resetCore.encStage = .hdr := rfl
@[simp] theorem State.resetCore_distDue (s : State) : s.resetCore.distDue = false := rfl
@[simp] theorem State.resetCore_inbox (s : State) : s.resetCore.inbox = s.inbox := rfl
@[simp] theorem State.resetCore_rdata (s : State) : s.resetCore.rdata = s.rdata := rfl
@[simp] theorem State.resetCore_free (s : State) : s.resetCore.free = s.free + 1 := rfl

@[simp] theorem State.request_phase (s : State) (r : Request) : (s.request r).phase = s.phase := rfl
@[simp] theorem State.request_inSize (s : State) (r : Request) : (s.request r).inSize = s.inSize := rfl
@[simp] theorem State.request_err (s : State) (r : Request) : (s.request r).err = s.err := rfl
@[simp] theorem State.request_size (s : State) (r : Request) : (s.request r).size = s.size := rfl
@[simp] theorem State.request_p (s : State) (r : Request) : (s.request r).p = s.p := rfl
@[simp] theorem State.request_ntok (s : State) (r : Request) : (s.request r).ntok = s.ntok := rfl
@[simp] theorem State.request_scratch (s : State) (r : Request) : (s.request r).scratch = s.scratch := rfl
@[simp] theorem State.request_head (s : State) (r : Request) : (s.request r).head = s.head := rfl
@[simp] theorem State.request_prev (s : State) (r : Request) : (s.request r).prev = s.prev := rfl
@[simp] theorem State.request_input (s : State) (r : Request) : (s.request r).input = s.input := rfl
@[simp] theorem State.request_tok (s : State) (r : Request) : (s.request r).tok = s.tok := rfl
@[simp] theorem State.request_out (s : State) (r : Request) : (s.request r).out = s.out := rfl
@[simp] theorem State.request_acc (s : State) (r : Request) : (s.request r).acc = s.acc := rfl
@[simp] theorem State.request_nbits (s : State) (r : Request) : (s.request r).nbits = s.nbits := rfl
@[simp] theorem State.request_flushed (s : State) (r : Request) : (s.request r).flushed = s.flushed := rfl
@[simp] theorem State.request_outLen (s : State) (r : Request) : (s.request r).outLen = s.outLen := rfl
@[simp] theorem State.request_tk (s : State) (r : Request) : (s.request r).tk = s.tk := rfl
@[simp] theorem State.request_encStage (s : State) (r : Request) : (s.request r).encStage = s.encStage := rfl
@[simp] theorem State.request_distDue (s : State) (r : Request) : (s.request r).distDue = s.distDue := rfl
@[simp] theorem State.request_inbox (s : State) (r : Request) : (s.request r).inbox = ⟨0, r⟩ :: s.inbox := rfl
@[simp] theorem State.request_rdata (s : State) (r : Request) : (s.request r).rdata = s.rdata := rfl
@[simp] theorem State.request_free (s : State) (r : Request) : (s.request r).free = s.free := rfl

@[simp] theorem State.alone_phase (s : State) : s.alone.phase = s.phase := rfl
@[simp] theorem State.alone_inSize (s : State) : s.alone.inSize = s.inSize := rfl
@[simp] theorem State.alone_err (s : State) : s.alone.err = s.err := rfl
@[simp] theorem State.alone_size (s : State) : s.alone.size = s.size := rfl
@[simp] theorem State.alone_p (s : State) : s.alone.p = s.p := rfl
@[simp] theorem State.alone_ntok (s : State) : s.alone.ntok = s.ntok := rfl
@[simp] theorem State.alone_scratch (s : State) : s.alone.scratch = s.scratch := rfl
@[simp] theorem State.alone_head (s : State) : s.alone.head = s.head := rfl
@[simp] theorem State.alone_prev (s : State) : s.alone.prev = s.prev := rfl
@[simp] theorem State.alone_input (s : State) : s.alone.input = s.input := rfl
@[simp] theorem State.alone_tok (s : State) : s.alone.tok = s.tok := rfl
@[simp] theorem State.alone_out (s : State) : s.alone.out = s.out := rfl
@[simp] theorem State.alone_acc (s : State) : s.alone.acc = s.acc := rfl
@[simp] theorem State.alone_nbits (s : State) : s.alone.nbits = s.nbits := rfl
@[simp] theorem State.alone_flushed (s : State) : s.alone.flushed = s.flushed := rfl
@[simp] theorem State.alone_outLen (s : State) : s.alone.outLen = s.outLen := rfl
@[simp] theorem State.alone_tk (s : State) : s.alone.tk = s.tk := rfl
@[simp] theorem State.alone_encStage (s : State) : s.alone.encStage = s.encStage := rfl
@[simp] theorem State.alone_distDue (s : State) : s.alone.distDue = s.distDue := rfl
@[simp] theorem State.alone_inbox (s : State) : s.alone.inbox = [] := rfl
@[simp] theorem State.alone_rdata (s : State) : s.alone.rdata = s.rdata := rfl
@[simp] theorem State.alone_free (s : State) : s.alone.free = s.free := rfl

@[simp] theorem State.encoderAt_phase (s : State) (g : EncStage) (b : Bool) : (s.encoderAt g b).phase = .encoding := rfl
@[simp] theorem State.encoderAt_inSize (s : State) (g : EncStage) (b : Bool) : (s.encoderAt g b).inSize = s.inSize := rfl
@[simp] theorem State.encoderAt_err (s : State) (g : EncStage) (b : Bool) : (s.encoderAt g b).err = s.err := rfl
@[simp] theorem State.encoderAt_size (s : State) (g : EncStage) (b : Bool) : (s.encoderAt g b).size = s.size := rfl
@[simp] theorem State.encoderAt_p (s : State) (g : EncStage) (b : Bool) : (s.encoderAt g b).p = s.p := rfl
@[simp] theorem State.encoderAt_ntok (s : State) (g : EncStage) (b : Bool) : (s.encoderAt g b).ntok = s.ntok := rfl
@[simp] theorem State.encoderAt_scratch (s : State) (g : EncStage) (b : Bool) : (s.encoderAt g b).scratch = s.scratch := rfl
@[simp] theorem State.encoderAt_head (s : State) (g : EncStage) (b : Bool) : (s.encoderAt g b).head = s.head := rfl
@[simp] theorem State.encoderAt_prev (s : State) (g : EncStage) (b : Bool) : (s.encoderAt g b).prev = s.prev := rfl
@[simp] theorem State.encoderAt_input (s : State) (g : EncStage) (b : Bool) : (s.encoderAt g b).input = s.input := rfl
@[simp] theorem State.encoderAt_tok (s : State) (g : EncStage) (b : Bool) : (s.encoderAt g b).tok = s.tok := rfl
@[simp] theorem State.encoderAt_out (s : State) (g : EncStage) (b : Bool) : (s.encoderAt g b).out = s.out := rfl
@[simp] theorem State.encoderAt_acc (s : State) (g : EncStage) (b : Bool) : (s.encoderAt g b).acc = s.acc := rfl
@[simp] theorem State.encoderAt_nbits (s : State) (g : EncStage) (b : Bool) : (s.encoderAt g b).nbits = s.nbits := rfl
@[simp] theorem State.encoderAt_flushed (s : State) (g : EncStage) (b : Bool) : (s.encoderAt g b).flushed = s.flushed := rfl
@[simp] theorem State.encoderAt_outLen (s : State) (g : EncStage) (b : Bool) : (s.encoderAt g b).outLen = s.outLen := rfl
@[simp] theorem State.encoderAt_tk (s : State) (g : EncStage) (b : Bool) : (s.encoderAt g b).tk = s.tk := rfl
@[simp] theorem State.encoderAt_encStage (s : State) (g : EncStage) (b : Bool) : (s.encoderAt g b).encStage = g := rfl
@[simp] theorem State.encoderAt_distDue (s : State) (g : EncStage) (b : Bool) : (s.encoderAt g b).distDue = b := rfl
@[simp] theorem State.encoderAt_inbox (s : State) (g : EncStage) (b : Bool) : (s.encoderAt g b).inbox = s.inbox := rfl
@[simp] theorem State.encoderAt_rdata (s : State) (g : EncStage) (b : Bool) : (s.encoderAt g b).rdata = s.rdata := rfl
@[simp] theorem State.encoderAt_free (s : State) (g : EncStage) (b : Bool) : (s.encoderAt g b).free = s.free := rfl

@[simp] theorem emitByte_phase (s : State) : (emitByte s).phase = s.phase := rfl
@[simp] theorem emitByte_inSize (s : State) : (emitByte s).inSize = s.inSize := rfl
@[simp] theorem emitByte_err (s : State) : (emitByte s).err = s.err := rfl
@[simp] theorem emitByte_size (s : State) : (emitByte s).size = s.size := rfl
@[simp] theorem emitByte_p (s : State) : (emitByte s).p = s.p := rfl
@[simp] theorem emitByte_ntok (s : State) : (emitByte s).ntok = s.ntok := rfl
@[simp] theorem emitByte_scratch (s : State) : (emitByte s).scratch = s.scratch := rfl
@[simp] theorem emitByte_head (s : State) : (emitByte s).head = s.head := rfl
@[simp] theorem emitByte_prev (s : State) : (emitByte s).prev = s.prev := rfl
@[simp] theorem emitByte_input (s : State) : (emitByte s).input = s.input := rfl
@[simp] theorem emitByte_tok (s : State) : (emitByte s).tok = s.tok := rfl
@[simp] theorem emitByte_out (s : State) : (emitByte s).out = Memory.write s.out s.outLen (s.acc.extractLsb' 0 8) := rfl
@[simp] theorem emitByte_acc (s : State) : (emitByte s).acc = s.acc >>> 8 := rfl
@[simp] theorem emitByte_nbits (s : State) : (emitByte s).nbits = s.nbits - 8 := rfl
@[simp] theorem emitByte_flushed (s : State) : (emitByte s).flushed = s.flushed := rfl
@[simp] theorem emitByte_outLen (s : State) : (emitByte s).outLen = s.outLen + 1 := rfl
@[simp] theorem emitByte_tk (s : State) : (emitByte s).tk = s.tk := rfl
@[simp] theorem emitByte_encStage (s : State) : (emitByte s).encStage = s.encStage := rfl
@[simp] theorem emitByte_distDue (s : State) : (emitByte s).distDue = s.distDue := rfl
@[simp] theorem emitByte_inbox (s : State) : (emitByte s).inbox = s.inbox := rfl
@[simp] theorem emitByte_rdata (s : State) : (emitByte s).rdata = s.rdata := rfl
@[simp] theorem emitByte_free (s : State) : (emitByte s).free = s.free := rfl

@[simp] theorem appendToken_phase (t : Token) (s : State) : (appendToken t s).phase = s.phase := rfl
@[simp] theorem appendToken_inSize (t : Token) (s : State) : (appendToken t s).inSize = s.inSize := rfl
@[simp] theorem appendToken_err (t : Token) (s : State) : (appendToken t s).err = s.err := rfl
@[simp] theorem appendToken_size (t : Token) (s : State) : (appendToken t s).size = s.size := rfl
@[simp] theorem appendToken_p (t : Token) (s : State) : (appendToken t s).p = s.p := rfl
@[simp] theorem appendToken_ntok (t : Token) (s : State) : (appendToken t s).ntok = s.ntok + 1 := rfl
@[simp] theorem appendToken_scratch (t : Token) (s : State) : (appendToken t s).scratch = s.scratch := rfl
@[simp] theorem appendToken_head (t : Token) (s : State) : (appendToken t s).head = s.head := rfl
@[simp] theorem appendToken_prev (t : Token) (s : State) : (appendToken t s).prev = s.prev := rfl
@[simp] theorem appendToken_input (t : Token) (s : State) : (appendToken t s).input = s.input := rfl
@[simp] theorem appendToken_tok (t : Token) (s : State) : (appendToken t s).tok = Memory.write s.tok s.ntok t.word := rfl
@[simp] theorem appendToken_out (t : Token) (s : State) : (appendToken t s).out = s.out := rfl
@[simp] theorem appendToken_acc (t : Token) (s : State) : (appendToken t s).acc = s.acc := rfl
@[simp] theorem appendToken_nbits (t : Token) (s : State) : (appendToken t s).nbits = s.nbits := rfl
@[simp] theorem appendToken_flushed (t : Token) (s : State) : (appendToken t s).flushed = s.flushed := rfl
@[simp] theorem appendToken_outLen (t : Token) (s : State) : (appendToken t s).outLen = s.outLen := rfl
@[simp] theorem appendToken_tk (t : Token) (s : State) : (appendToken t s).tk = s.tk := rfl
@[simp] theorem appendToken_encStage (t : Token) (s : State) : (appendToken t s).encStage = s.encStage := rfl
@[simp] theorem appendToken_distDue (t : Token) (s : State) : (appendToken t s).distDue = s.distDue := rfl
@[simp] theorem appendToken_inbox (t : Token) (s : State) : (appendToken t s).inbox = s.inbox := rfl
@[simp] theorem appendToken_rdata (t : Token) (s : State) : (appendToken t s).rdata = s.rdata := rfl
@[simp] theorem appendToken_free (t : Token) (s : State) : (appendToken t s).free = s.free := rfl

/-- A waiting transaction comes nearer; nothing else changes. -/
theorem State.tick_eq (s : State) : s.tick = { s with inbox := s.tick.inbox } := by
  unfold State.tick; split <;> rfl

@[simp] theorem State.tick_phase (s : State) : s.tick.phase = s.phase := by rw [s.tick_eq]
@[simp] theorem State.tick_inSize (s : State) : s.tick.inSize = s.inSize := by rw [s.tick_eq]
@[simp] theorem State.tick_err (s : State) : s.tick.err = s.err := by rw [s.tick_eq]
@[simp] theorem State.tick_size (s : State) : s.tick.size = s.size := by rw [s.tick_eq]
@[simp] theorem State.tick_p (s : State) : s.tick.p = s.p := by rw [s.tick_eq]
@[simp] theorem State.tick_ntok (s : State) : s.tick.ntok = s.ntok := by rw [s.tick_eq]
@[simp] theorem State.tick_scratch (s : State) : s.tick.scratch = s.scratch := by rw [s.tick_eq]
@[simp] theorem State.tick_head (s : State) : s.tick.head = s.head := by rw [s.tick_eq]
@[simp] theorem State.tick_prev (s : State) : s.tick.prev = s.prev := by rw [s.tick_eq]
@[simp] theorem State.tick_input (s : State) : s.tick.input = s.input := by rw [s.tick_eq]
@[simp] theorem State.tick_tok (s : State) : s.tick.tok = s.tok := by rw [s.tick_eq]
@[simp] theorem State.tick_out (s : State) : s.tick.out = s.out := by rw [s.tick_eq]
@[simp] theorem State.tick_acc (s : State) : s.tick.acc = s.acc := by rw [s.tick_eq]
@[simp] theorem State.tick_nbits (s : State) : s.tick.nbits = s.nbits := by rw [s.tick_eq]
@[simp] theorem State.tick_flushed (s : State) : s.tick.flushed = s.flushed := by rw [s.tick_eq]
@[simp] theorem State.tick_outLen (s : State) : s.tick.outLen = s.outLen := by rw [s.tick_eq]
@[simp] theorem State.tick_tk (s : State) : s.tick.tk = s.tk := by rw [s.tick_eq]
@[simp] theorem State.tick_encStage (s : State) : s.tick.encStage = s.encStage := by rw [s.tick_eq]
@[simp] theorem State.tick_distDue (s : State) : s.tick.distDue = s.distDue := by rw [s.tick_eq]
@[simp] theorem State.tick_rdata (s : State) : s.tick.rdata = s.rdata := by rw [s.tick_eq]
@[simp] theorem State.tick_free (s : State) : s.tick.free = s.free := by rw [s.tick_eq]

/-- A due transaction leaves `inbox`; nothing else changes. -/
theorem State.due_eq (s t : State) (r : Request) (h : s.due = some (r, t)) : t = { s with inbox := t.inbox } := by
  unfold State.due at h
  split at h
  · cases h; rfl
  · cases h

@[simp] theorem State.due_alone (s : State) : s.alone.due = none := rfl

@[simp] theorem State.tick_alone (s : State) : s.alone.tick = s.alone := rfl

@[simp] theorem State.due_request (s : State) (r : Request) : (s.request r).due = some (r, s) := rfl

theorem State.due_of_inbox_nil (s : State) (h : s.inbox = []) : s.due = none := by simp [State.due, h]

theorem State.tick_of_inbox_nil (s : State) (h : s.inbox = []) : s.tick = s := by simp [State.tick, h]

end Sys2Proof.Machine
end

