-- ==== Sys2Proof/Laws/Memory.lean ====
section
/-! SUPPORT. The laws of the memory spaces: a read after a write, and that a write keeps the canonical form. -/

namespace Sys2Proof.Machine

@[simp] theorem Memory.read_nil {α : Type} (a : Nat) : Memory.read ([] : Memory α) a = none := rfl

@[simp] theorem Memory.read_write_self {α : Type} (m : Memory α) (a : Nat) (v : α) :
    Memory.read (Memory.write m a v) a = some v := by
  induction m with
  | nil => simp [Memory.write, Memory.read]
  | cons c m ih =>
    obtain ⟨b, w⟩ := c
    simp only [Memory.write]
    split
    · simp [Memory.read]
    · split
      · simp [Memory.read]
      · rename_i h
        simp [Memory.read, Ne.symm h, ih]

theorem Memory.read_write_ne {α : Type} (m : Memory α) (a b : Nat) (v : α) (h : b ≠ a) :
    Memory.read (Memory.write m a v) b = Memory.read m b := by
  induction m with
  | nil => simp [Memory.write, Memory.read, Ne.symm h]
  | cons c m ih =>
    obtain ⟨k, w⟩ := c
    simp only [Memory.write]
    split
    · simp [Memory.read, Ne.symm h]
    · split
      · subst_vars
        simp [Memory.read, Ne.symm h]
      · simp only [Memory.read, ih]

theorem Memory.read_write {α : Type} (m : Memory α) (a b : Nat) (v : α) :
    Memory.read (Memory.write m a v) b = if b = a then some v else Memory.read m b := by
  split
  · subst_vars; simp
  · rename_i h; exact Memory.read_write_ne m a b v h

/-- The head of a written list is the lesser of the two indices. -/
theorem Memory.wf_cons_write {α : Type} (k : Nat) (x : α) (m : Memory α) (a : Nat) (v : α) (hk : k < a)
    (h : Memory.wf ((k, x) :: m) = true) (hm : Memory.wf (Memory.write m a v) = true) :
    Memory.wf ((k, x) :: Memory.write m a v) = true := by
  cases m with
  | nil => simp [Memory.write, Memory.wf, hk]
  | cons c m =>
    obtain ⟨b, w⟩ := c
    have hb : k < b := by
      simp only [Memory.wf, Bool.and_eq_true, decide_eq_true_eq] at h
      exact h.1
    simp only [Memory.write] at hm ⊢
    split
    · rename_i h1
      rw [if_pos h1] at hm
      simp [Memory.wf, hk] at hm ⊢
      exact hm
    · rename_i h1
      rw [if_neg h1] at hm
      split
      · rename_i h2
        rw [if_pos h2] at hm
        simp [Memory.wf, hk] at hm ⊢
        exact hm
      · rename_i h2
        rw [if_neg h2] at hm
        simp [Memory.wf, hb] at hm ⊢
        exact hm

/-- A write keeps the canonical form. -/
theorem Memory.wf_write {α : Type} (m : Memory α) (a : Nat) (v : α) (h : Memory.wf m = true) :
    Memory.wf (Memory.write m a v) = true := by
  induction m with
  | nil => rfl
  | cons c m ih =>
    obtain ⟨b, w⟩ := c
    have hm : Memory.wf m = true := by
      cases m with
      | nil => rfl
      | cons d m => simp [Memory.wf] at h; exact h.2
    simp only [Memory.write]
    split
    · rename_i h1
      cases m <;> simp_all [Memory.wf]
    · split
      · rename_i h1 h2
        subst h2
        cases m <;> simp_all [Memory.wf]
      · rename_i h1 h2
        exact Memory.wf_cons_write b w m a v (by omega) h (ih hm)

/-- The memories of the reset state have the canonical form. -/
theorem State.reset_memories_wf : Memory.wf State.reset.input ∧ Memory.wf State.reset.head ∧
    Memory.wf State.reset.prev ∧ Memory.wf State.reset.tok ∧ Memory.wf State.reset.out := by decide

end Sys2Proof.Machine
end

