-- ==== Sys2Proof/Laws/Operations.lean ====
section
/-! SUPPORT. For each shared operation, once, everything it can do: the capacity check, `PACK`, `FLUSH`, the flow of
operations, the operations of the matcher. -/

namespace Sys2Proof.Machine

/-- The capacity check is the comparison with `ceil((10 + 9 * N_MAX) / 8)` (R7, R181). -/
theorem outRoom_iff (P : Config.Params) (n : Nat) : outRoom P n = true ↔ n ≤ Config.outCapacity P := by
  simp only [outRoom, Config.outCapacity, decide_eq_true_eq]
  omega

@[simp] theorem Flow.state_running (s : State) : (Flow.running s).state = s := rfl
@[simp] theorem Flow.state_stopped (s : State) : (Flow.stopped s).state = s := rfl
@[simp] theorem Flow.running_andThen (s : State) (g : State → Flow) : (Flow.running s).andThen g = g s := rfl
@[simp] theorem Flow.stopped_andThen (s : State) (g : State → Flow) : (Flow.stopped s).andThen g = .stopped s := rfl

theorem Flow.andThen_eq_running (f : Flow) (g : State → Flow) (t : State) :
    f.andThen g = .running t ↔ ∃ s, f = .running s ∧ g s = .running t := by
  cases f <;> simp

/-- A flow stops in its first part or in its second. -/
theorem Flow.andThen_eq_stopped (f : Flow) (g : State → Flow) (t : State) :
    f.andThen g = .stopped t ↔ f = .stopped t ∨ ∃ s, f = .running s ∧ g s = .stopped t := by
  cases f <;> simp

/-- An enabled operation ends in its flow's state, one that is not enabled is refused (R140). -/
theorem whenEnabled_eq_next (b : Bool) (f : Flow) (t : State) :
    whenEnabled b f = .next t ↔ b = true ∧ f.state = t := by
  cases b <;> simp [whenEnabled]

/-- `PACK` raises one of two faults, or appends (R132, R181, R186). -/
theorem pack_cases (P : Config.Params) (v n : Nat) (s : State) :
    (pack P v n s = .stopped (s.raise .eMisuse) ∧ (s.flushed = true ∨ 16 < n ∨ 2 ^ n ≤ v)) ∨
    (pack P v n s = .stopped (s.raise .eCapacity) ∧
      Config.outCapacity P < s.outLen + (s.nbits + n) / 8) ∨
    (pack P v n s = .running (appendField v n s) ∧ s.flushed = false ∧ n ≤ 16 ∧ v < 2 ^ n ∧
      s.outLen + (s.nbits + n) / 8 ≤ Config.outCapacity P) := by
  unfold pack packFault
  rcases hf : s.flushed with _ | _
  · by_cases h1 : Config.packNMax < n
    · left; simp [h1]; left; simpa [Config.packNMax] using h1
    · by_cases h2 : 2 ^ n ≤ v
      · left; simp [h1, h2]
      · have hn : n ≤ 16 := by simpa [Config.packNMax] using h1
        rcases hr : outRoom P (s.outLen + (s.nbits + n) / 8) with _ | _
        · right; left
          simp only [h1, h2, if_false, Bool.false_eq_true, true_and]
          have := mt (outRoom_iff P (s.outLen + (s.nbits + n) / 8)).mpr (by simp [hr])
          omega
        · right; right
          have := (outRoom_iff P (s.outLen + (s.nbits + n) / 8)).mp hr
          simp only [h1, h2, if_false, if_true, Bool.false_eq_true, true_and]
          omega
  · left; simp

/-- `FLUSH` raises `E_CAPACITY`, or emits the pending byte, or has nothing to emit (R135, R181). -/
theorem flush_cases (P : Config.Params) (s : State) :
    (flush P s = .stopped (s.raise .eCapacity) ∧ 0 < s.nbits ∧ Config.outCapacity P < s.outLen + 1) ∨
    (flush P s = .running { s with
        out := Memory.write s.out s.outLen (s.acc.extractLsb' 0 8)
        outLen := s.outLen + 1
        acc := 0
        nbits := 0
        flushed := true } ∧ 0 < s.nbits ∧ s.outLen + 1 ≤ Config.outCapacity P) ∨
    (flush P s = .running { s with flushed := true } ∧ s.nbits = 0) := by
  unfold flush
  by_cases h : 0 < s.nbits
  · rcases hr : outRoom P (s.outLen + 1) with _ | _
    · left
      simp only [h, if_true, Bool.false_eq_true, if_false, true_and]
      have := mt (outRoom_iff P (s.outLen + 1)).mpr (by simp [hr])
      omega
    · right; left
      have := (outRoom_iff P (s.outLen + 1)).mp hr
      simp [h, this]
  · right; right
    simp only [h, if_false, true_and]
    omega

/-- The loop of `PACK` writes the stream's own registers and bytes alone (R132). -/
theorem drain_rest (r : Nat) (s : State) :
    drain r s = { s with
      acc := (drain r s).acc, nbits := (drain r s).nbits, out := (drain r s).out,
      outLen := (drain r s).outLen } := by
  induction r generalizing s with
  | zero => rfl
  | succ r ih => exact ih (emitByte s)

@[simp] theorem drain_outLen (r : Nat) (s : State) : (drain r s).outLen = s.outLen + r := by
  induction r generalizing s with
  | zero => rfl
  | succ r ih => simp only [drain, ih, emitByte_outLen]; omega

@[simp] theorem drain_nbits (r : Nat) (s : State) : (drain r s).nbits = s.nbits - 8 * r := by
  induction r generalizing s with
  | zero => simp [drain]
  | succ r ih => simp only [drain, ih, emitByte_nbits]; omega

/-- The bytes the loop of `PACK` stores are those from `out_len` on. -/
theorem drain_read (r : Nat) (s : State) (a : Nat) (h : ¬ (s.outLen ≤ a ∧ a < s.outLen + r)) :
    Memory.read (drain r s).out a = Memory.read s.out a := by
  induction r generalizing s with
  | zero => rfl
  | succ r ih =>
    rw [drain, ih (emitByte s) (by simp only [emitByte_outLen]; omega), emitByte_out,
      Memory.read_write_ne _ _ _ _ (by omega)]

/-! The matcher. -/

/-- A chain of operations that may be stuck goes on only if each does. -/
theorem bind_eq_ok {ε α β : Type} (x : Except ε α) (f : α → Except ε β) (b : β) :
    x.bind f = .ok b ↔ ∃ a, x = .ok a ∧ f a = .ok b := by
  cases x <;> simp [Except.bind]

/-- A read of `IN` that goes on is below `size` and finds the byte (R51). -/
theorem readIn_eq_ok (s : State) (i : Nat) (b : Byte) :
    readIn s i = .ok b ↔ i < s.size ∧ Memory.read s.input i = some b := by
  unfold readIn
  split
  · split <;> simp_all
  · simp_all

theorem readPrev_eq_ok (P : Config.Params) (s : State) (q : Nat) (v : Option Nat) :
    readPrev P s q = .ok v ↔ q < P.nMax ∧ Memory.read s.prev q = some v := by
  unfold readPrev
  split
  · split <;> simp_all
  · simp_all

/-- `HASH3` goes on where the three bytes are there (R102). -/
theorem hash3_eq_ok (P : Config.Params) (s : State) (q : Nat) (h : BitVec 15) :
    hash3 P s q = .ok h ↔ ∃ b0 b1 b2, readIn s q = .ok b0 ∧ readIn s (q + 1) = .ok b1 ∧
      readIn s (q + 2) = .ok b2 ∧ P.hash b0 b1 b2 = h := by
  simp only [hash3, bind_eq_ok, Except.ok.injEq]
  constructor
  · rintro ⟨b0, h0, b1, h1, b2, h2, e⟩; exact ⟨b0, b1, b2, h0, h1, h2, e⟩
  · rintro ⟨b0, b1, b2, h0, h1, h2, e⟩; exact ⟨b0, h0, b1, h1, b2, h2, e⟩

/-- `SEARCH` writes the working registers alone (R103). -/
theorem search_rest (P : Config.Params) (s t : State) (h : search P s = .ok t) :
    t = { s with scratch := t.scratch } := by
  unfold search at h
  split at h
  · simp only [bind_eq_ok, Except.ok.injEq] at h
    obtain ⟨_, _, _, _, rfl⟩ := h
    rfl
  · cases h; rfl

/-- One insertion writes `PREV`, `HEAD` and the working registers alone (R108). -/
theorem insertAt_rest (P : Config.Params) (pos : Nat) (s t : State) (h : insertAt P pos s = .ok t) :
    t = { s with scratch := t.scratch, prev := t.prev, head := t.head } := by
  unfold insertAt at h
  split at h
  · split at h
    · simp only [bind_eq_ok, Except.ok.injEq] at h
      obtain ⟨_, _, rfl⟩ := h
      rfl
    · cases h
  · cases h; rfl

theorem insertFrom_rest (P : Config.Params) (n pos : Nat) (s t : State) (h : insertFrom P n pos s = .ok t) :
    t = { s with scratch := t.scratch, prev := t.prev, head := t.head } := by
  induction n generalizing pos s with
  | zero => cases h; rfl
  | succ n ih =>
    simp only [insertFrom, bind_eq_ok] at h
    obtain ⟨u, h1, h2⟩ := h
    have e1 := insertAt_rest P pos s u h1
    have e2 := ih (pos + 1) u h2
    rw [e2, e1]

/-- Everything `MATCH_STEP` can do when it goes on: search, then either the token's emission, its insertions and the
advance, or the fault of a full `TOK` (R101, R181). -/
theorem matchStep_eq_ok (P : Config.Params) (s t : State) (h : matchStep P s = .ok t) :
    ∃ s1 tok, search P s = .ok s1 ∧ chooseToken s1 = .ok tok ∧
      ((s.ntok < Config.tokCapacity P ∧ ∃ s2, insertFrom P (covers tok) s.p (appendToken tok s1) = .ok s2 ∧
          t = { s2 with p := s.p + covers tok }) ∨
        (Config.tokCapacity P ≤ s.ntok ∧ t = s1.raise .eCapacity)) := by
  simp only [matchStep, bind_eq_ok] at h
  obtain ⟨s1, h1, tok, h2, h3⟩ := h
  have e := search_rest P s s1 h1
  have hn : s1.ntok = s.ntok := by rw [e]
  have hp : s1.p = s.p := by rw [e]
  refine ⟨s1, tok, h1, h2, ?_⟩
  split at h3
  · rename_i hc
    simp only [bind_eq_ok, Except.ok.injEq] at h3
    obtain ⟨s2, h4, rfl⟩ := h3
    left
    refine ⟨by omega, s2, by rw [← hp]; exact h4, ?_⟩
    have e2 := insertFrom_rest P _ _ _ _ h4
    have : s2.p = s.p := by rw [e2]; simpa using hp
    rw [this]
  · cases h3
    right
    exact ⟨by omega, rfl⟩

end Sys2Proof.Machine
end

