-- ==== Sys2Proof/Laws/PerInstr.lean ====
section
/-! SUPPORT. Lemmas made per instruction. EncodeWidth: the encoding of an instruction has the width of its row of the
table (R84, R90), and its word fits it. -/

namespace Sys2Proof.Laws

/-- The width of a row: its code bits and its extra bits (R84). -/
def rowWidth : Shape → Nat
  | .header => 3
  | .literal8 _ => 8
  | .literal9 _ => 9
  | .endOfBlock => 7
  | .length code k _ => (if code ≤ 279 then 7 else 8) + k
  | .distance _ k _ => 5 + k
  | .tokenLit _ => 24
  | .tokenMatch _ _ => 24
  | .start => 2
  | .reset => 2

/-- The word fits the width of its row. -/
def EncodeWidth.Statement (i : Instr) : Prop :=
  (encode i).1 = rowWidth i.shape ∧ (encode i).2 < 2 ^ rowWidth i.shape

/-- The bits of a row are as many as its width. -/
theorem shape_bits_length (x : Shape) : x.bits.length = rowWidth x := by
  cases x with
  | length code k e => by_cases h : code ≤ 279 <;> simp [Shape.bits, lengthCodeBits, rowWidth, h]
  | _ => simp [Shape.bits, rowWidth]

/-- Every row, at once. -/
theorem EncodeWidth.all (i : Instr) : EncodeWidth.Statement i := by
  have h : (encodeBits i).length = rowWidth i.shape := shape_bits_length i.shape
  exact ⟨h, by rw [← h]; exact natOfLsb_lt _⟩

theorem EncodeWidth.hdr : EncodeWidth.Statement (.hdr) := EncodeWidth.all _
theorem EncodeWidth.lit8 (b : Byte) : EncodeWidth.Statement (.lit8 b) := EncodeWidth.all _
theorem EncodeWidth.lit9 (b : Byte) : EncodeWidth.Statement (.lit9 b) := EncodeWidth.all _
theorem EncodeWidth.eob : EncodeWidth.Statement (.eob) := EncodeWidth.all _
theorem EncodeWidth.len257 : EncodeWidth.Statement (.len257) := EncodeWidth.all _
theorem EncodeWidth.len258 : EncodeWidth.Statement (.len258) := EncodeWidth.all _
theorem EncodeWidth.len259 : EncodeWidth.Statement (.len259) := EncodeWidth.all _
theorem EncodeWidth.len260 : EncodeWidth.Statement (.len260) := EncodeWidth.all _
theorem EncodeWidth.len261 : EncodeWidth.Statement (.len261) := EncodeWidth.all _
theorem EncodeWidth.len262 : EncodeWidth.Statement (.len262) := EncodeWidth.all _
theorem EncodeWidth.len263 : EncodeWidth.Statement (.len263) := EncodeWidth.all _
theorem EncodeWidth.len264 : EncodeWidth.Statement (.len264) := EncodeWidth.all _
theorem EncodeWidth.len265 (e : BitVec 1) : EncodeWidth.Statement (.len265 e) := EncodeWidth.all _
theorem EncodeWidth.len266 (e : BitVec 1) : EncodeWidth.Statement (.len266 e) := EncodeWidth.all _
theorem EncodeWidth.len267 (e : BitVec 1) : EncodeWidth.Statement (.len267 e) := EncodeWidth.all _
theorem EncodeWidth.len268 (e : BitVec 1) : EncodeWidth.Statement (.len268 e) := EncodeWidth.all _
theorem EncodeWidth.len269 (e : BitVec 2) : EncodeWidth.Statement (.len269 e) := EncodeWidth.all _
theorem EncodeWidth.len270 (e : BitVec 2) : EncodeWidth.Statement (.len270 e) := EncodeWidth.all _
theorem EncodeWidth.len271 (e : BitVec 2) : EncodeWidth.Statement (.len271 e) := EncodeWidth.all _
theorem EncodeWidth.len272 (e : BitVec 2) : EncodeWidth.Statement (.len272 e) := EncodeWidth.all _
theorem EncodeWidth.len273 (e : BitVec 3) : EncodeWidth.Statement (.len273 e) := EncodeWidth.all _
theorem EncodeWidth.len274 (e : BitVec 3) : EncodeWidth.Statement (.len274 e) := EncodeWidth.all _
theorem EncodeWidth.len275 (e : BitVec 3) : EncodeWidth.Statement (.len275 e) := EncodeWidth.all _
theorem EncodeWidth.len276 (e : BitVec 3) : EncodeWidth.Statement (.len276 e) := EncodeWidth.all _
theorem EncodeWidth.len277 (e : BitVec 4) : EncodeWidth.Statement (.len277 e) := EncodeWidth.all _
theorem EncodeWidth.len278 (e : BitVec 4) : EncodeWidth.Statement (.len278 e) := EncodeWidth.all _
theorem EncodeWidth.len279 (e : BitVec 4) : EncodeWidth.Statement (.len279 e) := EncodeWidth.all _
theorem EncodeWidth.len280 (e : BitVec 4) : EncodeWidth.Statement (.len280 e) := EncodeWidth.all _
theorem EncodeWidth.len281 (e : BitVec 5) : EncodeWidth.Statement (.len281 e) := EncodeWidth.all _
theorem EncodeWidth.len282 (e : BitVec 5) : EncodeWidth.Statement (.len282 e) := EncodeWidth.all _
theorem EncodeWidth.len283 (e : BitVec 5) : EncodeWidth.Statement (.len283 e) := EncodeWidth.all _
theorem EncodeWidth.len284 (e : BitVec 5) : EncodeWidth.Statement (.len284 e) := EncodeWidth.all _
theorem EncodeWidth.len285 : EncodeWidth.Statement (.len285) := EncodeWidth.all _
theorem EncodeWidth.dist0 : EncodeWidth.Statement (.dist0) := EncodeWidth.all _
theorem EncodeWidth.dist1 : EncodeWidth.Statement (.dist1) := EncodeWidth.all _
theorem EncodeWidth.dist2 : EncodeWidth.Statement (.dist2) := EncodeWidth.all _
theorem EncodeWidth.dist3 : EncodeWidth.Statement (.dist3) := EncodeWidth.all _
theorem EncodeWidth.dist4 (e : BitVec 1) : EncodeWidth.Statement (.dist4 e) := EncodeWidth.all _
theorem EncodeWidth.dist5 (e : BitVec 1) : EncodeWidth.Statement (.dist5 e) := EncodeWidth.all _
theorem EncodeWidth.dist6 (e : BitVec 2) : EncodeWidth.Statement (.dist6 e) := EncodeWidth.all _
theorem EncodeWidth.dist7 (e : BitVec 2) : EncodeWidth.Statement (.dist7 e) := EncodeWidth.all _
theorem EncodeWidth.dist8 (e : BitVec 3) : EncodeWidth.Statement (.dist8 e) := EncodeWidth.all _
theorem EncodeWidth.dist9 (e : BitVec 3) : EncodeWidth.Statement (.dist9 e) := EncodeWidth.all _
theorem EncodeWidth.dist10 (e : BitVec 4) : EncodeWidth.Statement (.dist10 e) := EncodeWidth.all _
theorem EncodeWidth.dist11 (e : BitVec 4) : EncodeWidth.Statement (.dist11 e) := EncodeWidth.all _
theorem EncodeWidth.dist12 (e : BitVec 5) : EncodeWidth.Statement (.dist12 e) := EncodeWidth.all _
theorem EncodeWidth.dist13 (e : BitVec 5) : EncodeWidth.Statement (.dist13 e) := EncodeWidth.all _
theorem EncodeWidth.dist14 (e : BitVec 6) : EncodeWidth.Statement (.dist14 e) := EncodeWidth.all _
theorem EncodeWidth.dist15 (e : BitVec 6) : EncodeWidth.Statement (.dist15 e) := EncodeWidth.all _
theorem EncodeWidth.dist16 (e : BitVec 7) : EncodeWidth.Statement (.dist16 e) := EncodeWidth.all _
theorem EncodeWidth.dist17 (e : BitVec 7) : EncodeWidth.Statement (.dist17 e) := EncodeWidth.all _
theorem EncodeWidth.dist18 (e : BitVec 8) : EncodeWidth.Statement (.dist18 e) := EncodeWidth.all _
theorem EncodeWidth.dist19 (e : BitVec 8) : EncodeWidth.Statement (.dist19 e) := EncodeWidth.all _
theorem EncodeWidth.dist20 (e : BitVec 9) : EncodeWidth.Statement (.dist20 e) := EncodeWidth.all _
theorem EncodeWidth.dist21 (e : BitVec 9) : EncodeWidth.Statement (.dist21 e) := EncodeWidth.all _
theorem EncodeWidth.dist22 (e : BitVec 10) : EncodeWidth.Statement (.dist22 e) := EncodeWidth.all _
theorem EncodeWidth.dist23 (e : BitVec 10) : EncodeWidth.Statement (.dist23 e) := EncodeWidth.all _
theorem EncodeWidth.dist24 (e : BitVec 11) : EncodeWidth.Statement (.dist24 e) := EncodeWidth.all _
theorem EncodeWidth.dist25 (e : BitVec 11) : EncodeWidth.Statement (.dist25 e) := EncodeWidth.all _
theorem EncodeWidth.dist26 (e : BitVec 12) : EncodeWidth.Statement (.dist26 e) := EncodeWidth.all _
theorem EncodeWidth.dist27 (e : BitVec 12) : EncodeWidth.Statement (.dist27 e) := EncodeWidth.all _
theorem EncodeWidth.dist28 (e : BitVec 13) : EncodeWidth.Statement (.dist28 e) := EncodeWidth.all _
theorem EncodeWidth.dist29 (e : BitVec 13) : EncodeWidth.Statement (.dist29 e) := EncodeWidth.all _
theorem EncodeWidth.tokLit (b : Byte) : EncodeWidth.Statement (.tokLit b) := EncodeWidth.all _
theorem EncodeWidth.tokMatch (l : BitVec 8) (d : BitVec 15) : EncodeWidth.Statement (.tokMatch l d) := EncodeWidth.all _
theorem EncodeWidth.start : EncodeWidth.Statement (.start) := EncodeWidth.all _
theorem EncodeWidth.reset : EncodeWidth.Statement (.reset) := EncodeWidth.all _

end Sys2Proof.Laws
end

