-- ==== Sys2Proof/Laws/Step.lean ====
section
/-! SUPPORT. What the encoder's operations and a step can do, said once: the frame of the encoder, and the inversion of
the fetch and of the step. -/

namespace Sys2Proof.Machine

/-! The encoder. -/

/-- What an encoder operation may change: the stream's registers and bytes, `ERR` and `PHASE` by a fault, `distDue`, `tk`
and `enc_stage`; bytes already written stay. -/
structure EncFrame (s t : State) : Prop where
  rest : t = { s with
    acc := t.acc, nbits := t.nbits, out := t.out, outLen := t.outLen, err := t.err, phase := t.phase,
    distDue := t.distDue, tk := t.tk, encStage := t.encStage }
  grows : s.outLen ≤ t.outLen
  kept : ∀ a, a < s.outLen → Memory.read t.out a = Memory.read s.out a

theorem EncFrame.refl (s : State) : EncFrame s s := ⟨rfl, Nat.le_refl _, fun _ _ => rfl⟩

theorem EncFrame.trans {s t u : State} (h1 : EncFrame s t) (h2 : EncFrame t u) : EncFrame s u := by
  refine ⟨?_, h1.grows.trans h2.grows, fun a ha => (h2.kept a (by have := h1.grows; omega)).trans (h1.kept a ha)⟩
  have e := h2.rest
  rw [h1.rest] at e
  exact e

theorem EncFrame.raise (s : State) (e : ErrCode) : EncFrame s (s.raise e) := ⟨rfl, Nat.le_refl _, fun _ _ => rfl⟩

/-- The end of a flow, beside its frame: it goes on in the phase it began in, or it was stopped by a fault. -/
structure FlowFrame (s : State) (f : Flow) : Prop where
  frame : EncFrame s f.state
  running : ∀ t, f = .running t → t.phase = s.phase ∧ t.err = s.err
  stopped : ∀ t, f = .stopped t → t.phase = .error ∧ t.err ≠ .eNone

theorem FlowFrame.andThen {s : State} {f : Flow} {g : State → Flow} (hf : FlowFrame s f)
    (hg : ∀ u, f = .running u → FlowFrame u (g u)) : FlowFrame s (f.andThen g) := by
  cases f with
  | stopped u => exact ⟨hf.frame, (fun _ h => by cases h), fun t h => by cases h; exact hf.stopped _ rfl⟩
  | running u =>
    have h1 := hg u rfl
    have h2 := hf.running u rfl
    refine ⟨hf.frame.trans h1.frame, fun t h => ?_, fun t h => h1.stopped t h⟩
    have h3 := h1.running t h
    exact ⟨h3.1.trans h2.1, h3.2.trans h2.2⟩

theorem FlowFrame.raise (s : State) (e : ErrCode) (h : e ≠ .eNone) : FlowFrame s (.stopped (s.raise e)) :=
  ⟨.raise s e, (fun _ h => by cases h), fun _ ht => by cases ht; exact ⟨rfl, h⟩⟩

/-- The append of a field keeps every field that is not the stream's. -/
theorem appendField_rest (v n : Nat) (s : State) :
    appendField v n s = { s with
      acc := (appendField v n s).acc, nbits := (appendField v n s).nbits, out := (appendField v n s).out,
      outLen := (appendField v n s).outLen } :=
  drain_rest ((s.nbits + n) / 8)
    { s with acc := s.acc ||| (BitVec.ofNat 32 v <<< s.nbits), nbits := s.nbits + n }

@[simp] theorem appendField_outLen (v n : Nat) (s : State) :
    (appendField v n s).outLen = s.outLen + (s.nbits + n) / 8 := by simp [appendField]

@[simp] theorem appendField_nbits (v n : Nat) (s : State) :
    (appendField v n s).nbits = (s.nbits + n) % 8 := by
  simp only [appendField, drain_nbits]
  omega

/-- The bytes the append of a field stores are those from `out_len` on. -/
theorem appendField_read (v n : Nat) (s : State) (a : Nat)
    (h : ¬ (s.outLen ≤ a ∧ a < s.outLen + (s.nbits + n) / 8)) :
    Memory.read (appendField v n s).out a = Memory.read s.out a := drain_read _ _ a h

theorem appendField_frame (v n : Nat) (s : State) : EncFrame s (appendField v n s) := by
  refine ⟨?_, by simp, fun a ha => appendField_read v n s a (by omega)⟩
  have hr := appendField_rest v n s
  rw [hr]

theorem pack_frame (P : Config.Params) (v n : Nat) (s : State) : FlowFrame s (pack P v n s) := by
  rcases pack_cases P v n s with ⟨h, _⟩ | ⟨h, _⟩ | ⟨h, _⟩ <;> rw [h]
  · exact .raise s _ (by decide)
  · exact .raise s _ (by decide)
  · refine ⟨appendField_frame v n s, fun t ht => ?_, (fun _ h => by cases h)⟩
    cases ht
    have hr := appendField_rest v n s
    exact ⟨by rw [hr], by rw [hr]⟩

theorem packExtra_frame (P : Config.Params) (v n : Nat) (s : State) : FlowFrame s (packExtra P v n s) := by
  unfold packExtra
  split
  · exact pack_frame P v n s
  · exact ⟨.refl s, fun t h => by cases h; exact ⟨rfl, rfl⟩, (fun _ h => by cases h)⟩

/-- Operations that only move the encoder's own position. -/
theorem FlowFrame.stage (s : State) (g : EncStage) : FlowFrame s (.running { s with encStage := g }) :=
  ⟨⟨rfl, Nat.le_refl _, fun _ _ => rfl⟩, fun t h => by cases h; exact ⟨rfl, rfl⟩, (fun _ h => by cases h)⟩

theorem FlowFrame.due (s : State) (b : Bool) : FlowFrame s (.running { s with distDue := b }) :=
  ⟨⟨rfl, Nat.le_refl _, fun _ _ => rfl⟩, fun t h => by cases h; exact ⟨rfl, rfl⟩, (fun _ h => by cases h)⟩

theorem tokenDone_frame (s : State) : FlowFrame s (tokenDone s) :=
  ⟨⟨rfl, Nat.le_refl _, fun _ _ => rfl⟩, fun t h => by cases h; exact ⟨rfl, rfl⟩, (fun _ h => by cases h)⟩

theorem encHdr_frame (P : Config.Params) (s : State) : FlowFrame s (encHdr P s) := by
  unfold encHdr
  refine FlowFrame.andThen (FlowFrame.andThen ?_ ?_) ?_
  · exact pack_frame P 1 1 s
  · intro u _; exact pack_frame P 1 2 u
  · intro u _; exact .stage u _

theorem encLit_frame (P : Config.Params) (b : Byte) (s : State) : FlowFrame s (encLit P b s) := by
  unfold encLit packCode
  split
  · apply pack_frame
  · apply pack_frame

theorem encLength_frame (P : Config.Params) (code extra : Nat) (s : State) :
    FlowFrame s (encLength P code extra s) := by
  unfold encLength packCode
  refine FlowFrame.andThen (FlowFrame.andThen ?_ ?_) ?_
  · apply pack_frame
  · intro u _; apply packExtra_frame
  · intro u _; exact .due u true

theorem encDistance_frame (P : Config.Params) (symbol extra : Nat) (s : State) :
    FlowFrame s (encDistance P symbol extra s) := by
  unfold encDistance packCode
  refine FlowFrame.andThen (FlowFrame.andThen ?_ ?_) ?_
  · apply pack_frame
  · intro u _; apply packExtra_frame
  · intro u _; exact .due u false

theorem encEob_frame (P : Config.Params) (s : State) : FlowFrame s (encEob P s) := by
  unfold encEob packCode
  refine FlowFrame.andThen ?_ ?_
  · apply pack_frame
  · intro u _; exact .stage u .flush

theorem encMatch_frame (P : Config.Params) (len dist : Nat) (s : State) (f : Flow)
    (h : encMatch P len dist s = some f) : FlowFrame s f := by
  unfold encMatch at h
  split at h
  · cases h
    exact (encLength_frame P _ _ s).andThen fun u _ => encDistance_frame P _ _ u
  · cases h

/-- An enabled operation goes on by its flow, in `ENCODE`. -/
theorem whenEnabled_frame {b : Bool} {f : Flow} {s t : State} (hb : b = true → s.phase = .encoding)
    (hf : FlowFrame s f) (h : whenEnabled b f = .next t) :
    s.phase = .encoding ∧ EncFrame s t ∧
      ((t.phase = s.phase ∧ t.err = s.err) ∨ (t.phase = .error ∧ t.err ≠ .eNone)) := by
  obtain ⟨h1, rfl⟩ := (whenEnabled_eq_next b f t).mp h
  refine ⟨hb h1, hf.frame, ?_⟩
  cases f with
  | running u => exact .inl (hf.running u rfl)
  | stopped u => exact .inr (hf.stopped u rfl)

theorem atLitLen_phase {s : State} (h : atLitLen s = true) : s.phase = .encoding := by
  simp [atLitLen] at h; exact h.1.1

theorem atDistance_phase {s : State} (h : atDistance s = true) : s.phase = .encoding := by
  simp [atDistance] at h; exact h.1.1

theorem atHeader_phase {s : State} (h : atHeader s = true) : s.phase = .encoding := by
  simp [atHeader] at h; exact h.1

theorem atEob_phase {s : State} (h : atEob s = true) : s.phase = .encoding := by
  simp [atEob] at h; exact h.1.1

theorem runLength_frame {code extra : Nat} {s t : State} (h : runLength code extra s = .next t) :
    s.phase = .encoding ∧ EncFrame s t ∧
      ((t.phase = s.phase ∧ t.err = s.err) ∨ (t.phase = .error ∧ t.err ≠ .eNone)) :=
  whenEnabled_frame atLitLen_phase (encLength_frame _ _ _ s) h

theorem runDistance_frame {symbol extra : Nat} {s t : State} (h : runDistance symbol extra s = .next t) :
    s.phase = .encoding ∧ EncFrame s t ∧
      ((t.phase = s.phase ∧ t.err = s.err) ∨ (t.phase = .error ∧ t.err ≠ .eNone)) :=
  whenEnabled_frame atDistance_phase (encDistance_frame _ _ _ s) h

/-- Everything an element or a token can do when it goes on: it runs in `ENCODE`, within the encoder's frame. -/
theorem exec_encoder_frame (i : Instr) (s t : State) (hi : i.position ≠ .ctrl) (h : exec i s = .next t) :
    s.phase = .encoding ∧ EncFrame s t ∧
      ((t.phase = s.phase ∧ t.err = s.err) ∨ (t.phase = .error ∧ t.err ≠ .eNone)) := by
  cases i
  case start => exact absurd rfl hi
  case reset => exact absurd rfl hi
  case hdr => exact whenEnabled_frame atHeader_phase (encHdr_frame _ s) h
  case eob => exact whenEnabled_frame atEob_phase (encEob_frame _ s) h
  case lit8 b =>
    simp only [exec, execLit8] at h
    split at h
    · exact whenEnabled_frame atLitLen_phase (encLit_frame _ b s) h
    · cases h
  case lit9 b =>
    simp only [exec, execLit9] at h
    split at h
    · exact whenEnabled_frame atLitLen_phase (encLit_frame _ b s) h
    · cases h
  case tokLit b =>
    exact whenEnabled_frame atLitLen_phase ((encLit_frame _ b s).andThen fun u _ => tokenDone_frame u) h
  case tokMatch l d =>
    simp only [exec, execTokMatch] at h
    split at h
    · rename_i f hf
      exact whenEnabled_frame atLitLen_phase ((encMatch_frame _ _ _ s f hf).andThen fun u _ => tokenDone_frame u) h
    · cases h
  case len284 e =>
    simp only [exec, execLen284] at h
    split at h
    · exact runLength_frame h
    · cases h
  case len257 | len258 | len259 | len260 | len261 | len262 | len263 | len264 | len265 | len266 |
      len267 | len268 | len269 | len270 | len271 | len272 | len273 | len274 | len275 | len276 |
      len277 | len278 | len279 | len280 | len281 | len282 | len283 | len285 =>
    exact runLength_frame h
  all_goals exact runDistance_frame h

/-! The controller's commands and the two units' last operations. -/

/-- What `START` can do (R164, R182). -/
theorem startRun_cases (P : Config.Params) (s : State) :
    (startRun P s = s.raise .eSize ∧ (s.phase = .idle ∨ s.phase = .done) ∧ P.nMax < s.inSize) ∨
    (startRun P s = s.beginRun ∧ (s.phase = .idle ∨ s.phase = .done) ∧ s.inSize ≤ P.nMax) ∨
    (startRun P s = s ∧ (s.phase = .matching ∨ s.phase = .encoding ∨ s.phase = .error)) := by
  unfold startRun
  rcases h : s.phase with _ | _ | _ | _ | _ <;> simp
  all_goals by_cases h2 : P.nMax < s.inSize <;> simp [h2]
  all_goals omega

/-- What `ENC_FLUSH` can do (R151): it raises `E_CAPACITY`, or the flush ends and the run is done. -/
theorem encFlush_cases (P : Config.Params) (s : State) :
    ((encFlush P s).state = s.raise .eCapacity) ∨
    (∃ u, flush P s = .running u ∧ (encFlush P s).state = { u with phase := .done } ∧
      (∀ a, a < s.outLen → Memory.read u.out a = Memory.read s.out a) ∧ s.outLen ≤ u.outLen ∧
      u = { s with out := u.out, outLen := u.outLen, acc := u.acc, nbits := u.nbits, flushed := u.flushed }) := by
  unfold encFlush
  rcases flush_cases P s with ⟨h, _⟩ | ⟨h, _⟩ | ⟨h, _⟩ <;> rw [h]
  · left; rfl
  · right; exact ⟨_, rfl, rfl, fun a ha => Memory.read_write_ne _ _ _ _ (by omega), by simp, rfl⟩
  · right; exact ⟨_, rfl, rfl, fun _ _ => rfl, by simp, rfl⟩

/-- The frame of `MATCH_STEP` (R101): what it changes, that it ends in `ERROR` only with `E_CAPACITY`, and that it
rewrites no token (R54). -/
theorem matchStep_frame (P : Config.Params) (s t : State) (h : matchStep P s = .ok t) :
    t = { s with scratch := t.scratch, tok := t.tok, ntok := t.ntok, prev := t.prev, head := t.head, p := t.p,
                 err := t.err, phase := t.phase } ∧
    ((t.phase = s.phase ∧ t.err = s.err) ∨ (t.phase = .error ∧ t.err = .eCapacity)) ∧
    s.ntok ≤ t.ntok ∧ (∀ i, i < s.ntok → Memory.read t.tok i = Memory.read s.tok i) := by
  obtain ⟨s1, tok, h1, h2, h3⟩ := matchStep_eq_ok P s t h
  have e1 := search_rest P s s1 h1
  rcases h3 with ⟨_, s2, h4, rfl⟩ | ⟨_, rfl⟩
  · have e2 := insertFrom_rest P _ _ _ _ h4
    refine ⟨?_, ?_, ?_, ?_⟩
    · rw [e2, e1]; rfl
    · left; rw [e2, e1]; exact ⟨rfl, rfl⟩
    · rw [e2, e1]; simp
    · intro i hi
      rw [e2, e1]
      exact Memory.read_write_ne _ _ _ _ (by simp; omega)
  · refine ⟨?_, ?_, ?_, ?_⟩
    · rw [e1]; rfl
    · right; rw [e1]; exact ⟨rfl, rfl⟩
    · rw [e1]; simp
    · rw [e1]; simp

/-! The fetch and the step. -/

/-- A step runs a fetched instruction, or was settled by the fetch. -/
theorem step_cases (s t : State) (h : step s = .next t) :
    (∃ i u, fetch Config.params s = .run i u ∧ exec i u = .next t) ∨
      fetch Config.params s = .settled (.next t) := by
  unfold step at h
  split at h
  · rename_i i u hf; exact .inl ⟨i, u, hf, h⟩
  · rename_i r hf; exact .inr (h ▸ hf)

/-- What CORE does by itself without running an instruction (R140, R162, R195). -/
theorem fetchCore_settled (P : Config.Params) (s t : State) (h : fetchCore P s = .settled (.next t)) :
    (s.phase.running = false ∧ t = s) ∨
    (s.phase = .matching ∧ s.p < s.size ∧ matchStep P s = .ok t) ∨
    (s.phase = .matching ∧ s.p = s.size ∧ t = s.enterEncode) ∨
    (s.phase = .encoding ∧ s.encStage = .flush ∧ t = (encFlush P s).state) := by
  unfold fetchCore at h
  rcases hp : s.phase with _ | _ | _ | _ | _ <;> simp only [hp] at h
  · cases h; exact .inl ⟨rfl, rfl⟩
  · split at h
    · rename_i hlt
      rcases hm : matchStep P s with f | u <;> rw [hm] at h <;> cases h
      exact .inr (.inl ⟨rfl, hlt, rfl⟩)
    · split at h
      · rename_i he; cases h; exact .inr (.inr (.inl ⟨rfl, he, rfl⟩))
      · cases h
  · rcases hg : s.encStage with _ | _ | _ | _ <;> simp only [hg] at h
    · cases h
    · split at h
      · unfold fetchToken at h
        split at h
        · cases h
        · split at h <;> cases h
      · cases h
    · cases h
    · cases h; exact .inr (.inr (.inr ⟨rfl, rfl, rfl⟩))
  · cases h; exact .inl ⟨rfl, rfl⟩
  · cases h; exact .inl ⟨rfl, rfl⟩

/-- The instructions CORE fetches by itself: the header, the `EOB` and the tokens, in `ENCODE` (R140). -/
theorem fetchCore_run (P : Config.Params) (s u : State) (i : Instr) (h : fetchCore P s = .run i u) :
    u = s ∧ s.phase = .encoding ∧ (i = .hdr ∨ i = .eob ∨
      (s.encStage = .tokens ∧ s.tk < s.ntok ∧
        ∃ w, Memory.read s.tok s.tk = some w ∧ decodeTokenWord w = .ok i)) := by
  unfold fetchCore at h
  rcases hp : s.phase with _ | _ | _ | _ | _ <;> simp only [hp] at h
  · cases h
  · split at h
    · rcases hm : matchStep P s with f | u <;> rw [hm] at h <;> cases h
    · split at h <;> cases h
  · rcases hg : s.encStage with _ | _ | _ | _ <;> simp only [hg] at h
    · cases h; exact ⟨rfl, rfl, .inl rfl⟩
    · split at h
      · rename_i hlt
        unfold fetchToken readTok at h
        rcases hr : Memory.read s.tok s.tk with _ | w <;> simp only [hr] at h
        · cases h
        · rcases hd : decodeTokenWord w with e | j <;> simp only [hd] at h <;> cases h
          exact ⟨rfl, rfl, .inr (.inr ⟨rfl, hlt, w, rfl, hd⟩)⟩
      · cases h; exact ⟨rfl, rfl, .inr (.inl rfl)⟩
    · cases h; exact ⟨rfl, rfl, .inr (.inl rfl)⟩
    · cases h
  · cases h
  · cases h

/-- A transaction that runs an instruction: a command of `CTRL`, or a driven element (R23). -/
theorem serve_run (P : Config.Params) (r : Request) (s u : State) (i : Instr) (h : serve P r s = .run i u) :
    u = s ∧ ((∃ v, r = .writeCtrl v ∧ decodeCtrl v = .ok i) ∨
      (∃ bits, r = .drive bits ∧ decode (encoderPosition s) bits = .ok (i, []))) := by
  cases r <;> simp only [serve] at h
  case writeCtrl v =>
    rcases hd : decodeCtrl v with e | j <;> rw [hd] at h <;> cases h
    exact ⟨rfl, .inl ⟨v, rfl, hd⟩⟩
  case drive bits =>
    unfold fetchDriven at h
    split at h
    · rename_i j hd
      cases h
      exact ⟨rfl, .inr ⟨bits, rfl, hd⟩⟩
    · cases h
  all_goals cases h

/-- A transaction that is settled and goes on (R22, R163, R165, U11). -/
theorem serve_settled (P : Config.Params) (r : Request) (s t : State) (h : serve P r s = .settled (.next t)) :
    t = s ∨ (∃ v, r = .writeInSize v ∧ t = writeInSize P v s) ∨
    (∃ i b, r = .writeIn i b ∧ s.phase.running = false ∧ i < P.nMax ∧
      t = { s with input := Memory.write s.input i b }) ∨
    (∃ v, t = { s with rdata := some v }) := by
  cases r <;> simp only [serve, Fetched.settled.injEq, Host.Outcome.next.injEq] at h
  case writeCtrl v =>
    rcases hd : decodeCtrl v with e | j <;> rw [hd] at h <;> cases h
    exact .inl rfl
  case writeInSize v => exact .inr (.inl ⟨v, rfl, h.symm⟩)
  case writeIn i b =>
    unfold writeIn at h
    split at h
    · cases h
    · split at h
      · rename_i hr hi
        cases h
        exact .inr (.inr (.inl ⟨i, b, rfl, by simpa using hr, hi, rfl⟩))
      · cases h
  case readInSize =>
    right; right; right
    subst h
    unfold readInSize
    split
    · exact ⟨_, rfl⟩
    · exact ⟨_, rfl⟩
  case readOutSize =>
    right; right; right
    subst h
    unfold readOutSize
    split
    · exact ⟨_, rfl⟩
    · exact ⟨_, rfl⟩
    · exact ⟨_, rfl⟩
    · exact ⟨_, rfl⟩
    · exact ⟨_, rfl⟩
  case readOut i =>
    right; right; right
    unfold readOut at h
    split at h
    · split at h
      · cases h; exact ⟨_, rfl⟩
      · cases h
    · cases h; exact ⟨_, rfl⟩
  case drive bits =>
    unfold fetchDriven at h
    split at h <;> cases h
  case writeStatus v => exact .inl h.symm
  case writeOutSize v => exact .inl h.symm
  case writeErr v => exact .inl h.symm
  all_goals exact .inr (.inr (.inr ⟨_, h.symm⟩))

/-- The fetch serves the transaction that is due, or else goes on by itself (log 3). -/
theorem fetch_of_due (P : Config.Params) (s t : State) (r : Request) (h : s.due = some (r, t)) :
    fetch P s = serve P r t := by simp [fetch, h]

theorem fetch_of_not_due (P : Config.Params) (s : State) (h : s.due = none) :
    fetch P s = fetchCore P s.tick := by simp [fetch, h]

end Sys2Proof.Machine
end

