-- ==== Sys2Proof/Tests/Slice0.lean ====
section
/-! SUPPORT. The model's own tests, each from a table or a worked example of spec/: the checks of WellFormed, the words
of the opcode table written out bit by bit, the unit vectors of spec/95_test_vectors.md, single steps; and for each
statement with hypotheses a witness that meets them. Bits stand as 0 and 1 in stream order (R11). -/

namespace Sys2Proof.Tests

open Sys2Proof Sys2Proof.Machine

/-! Helpers. -/

/-- A bit string of the spec. -/
def bits (l : List Nat) : List Bool := l.map (· == 1)

/-- The bits decode at the position to the instruction and nothing is left. -/
def decodesTo (pos : Position) (l : List Nat) (i : Instr) : Bool :=
  match decode pos (bits l) with
  | .ok (j, rest) => i == j && rest == []
  | .error _ => false

/-- The outcome is a next state with the property. -/
def nextHas (r : Result) (p : State → Bool) : Bool :=
  match r with
  | .next t => p t
  | _ => false

/-- The operation went on to a state with the property. -/
def runningHas (f : Flow) (p : State → Bool) : Bool :=
  match f with
  | .running t => p t
  | .stopped _ => false

/-- The operation raised the code and left the state otherwise as it was. -/
def raised (f : Flow) (s : State) (e : ErrCode) : Bool :=
  match f with
  | .running _ => false
  | .stopped t => t == s.raise e

/-- The matcher went on to a state with the property. -/
def matchedTo (r : Except Fault State) (p : State → Bool) : Bool :=
  match r with
  | .ok t => p t
  | .error _ => false

/-- The encoder at a literal/length position, with nothing written. -/
def atElement : State := { State.reset with phase := .encoding, encStage := .tokens, ntok := 1 }

/-- The encoder at a distance position, with nothing written. -/
def atDist : State := { atElement with distDue := true }

/-- The element decodes from its bits at the position, and the encoder, where it is enabled, writes just these bits. -/
def elementOk (s : State) (pos : Position) (l : List Nat) (i : Instr) : Bool :=
  decodesTo pos l i && nextHas (exec i s) fun t => t.stream == bits l

/-! WellFormed refuses the ill-formed terms (R76, R77, R87) and takes those at the edge of the range. -/

theorem test_lit8_144_ill_formed : (Instr.lit8 144).wellFormed = false := by decide
theorem test_lit9_143_ill_formed : (Instr.lit9 143).wellFormed = false := by decide
theorem test_len284_31_ill_formed : (Instr.len284 31).wellFormed = false := by decide
theorem test_edges_well_formed :
    [Instr.lit8 143, .lit9 144, .len284 30, .len283 31].all (·.wellFormed) = true := by decide

/-! Every stream row of the table: its "encoding" column with the extra bits filled in, decoded and written. The extra
value is `0`, `1` or `2^k - 2`, least significant bit first: the row's first extra bit is 0 and the others 1. -/

theorem test_len257_to_len261 :
    [elementOk atElement .litLen [0, 0, 0, 0, 0, 0, 1] .len257,
     elementOk atElement .litLen [0, 0, 0, 0, 0, 1, 0] .len258,
     elementOk atElement .litLen [0, 0, 0, 0, 0, 1, 1] .len259,
     elementOk atElement .litLen [0, 0, 0, 0, 1, 0, 0] .len260,
     elementOk atElement .litLen [0, 0, 0, 0, 1, 0, 1] .len261].all id = true := by decide

theorem test_len262_to_len266 :
    [elementOk atElement .litLen [0, 0, 0, 0, 1, 1, 0] .len262,
     elementOk atElement .litLen [0, 0, 0, 0, 1, 1, 1] .len263,
     elementOk atElement .litLen [0, 0, 0, 1, 0, 0, 0] .len264,
     elementOk atElement .litLen [0, 0, 0, 1, 0, 0, 1, 1] (.len265 1),
     elementOk atElement .litLen [0, 0, 0, 1, 0, 1, 0, 1] (.len266 1)].all id = true := by decide

theorem test_len267_to_len271 :
    [elementOk atElement .litLen [0, 0, 0, 1, 0, 1, 1, 1] (.len267 1),
     elementOk atElement .litLen [0, 0, 0, 1, 1, 0, 0, 1] (.len268 1),
     elementOk atElement .litLen [0, 0, 0, 1, 1, 0, 1, 0, 1] (.len269 2),
     elementOk atElement .litLen [0, 0, 0, 1, 1, 1, 0, 0, 1] (.len270 2),
     elementOk atElement .litLen [0, 0, 0, 1, 1, 1, 1, 0, 1] (.len271 2)].all id = true := by decide

theorem test_len272_to_len276 :
    [elementOk atElement .litLen [0, 0, 1, 0, 0, 0, 0, 0, 1] (.len272 2),
     elementOk atElement .litLen [0, 0, 1, 0, 0, 0, 1, 0, 1, 1] (.len273 6),
     elementOk atElement .litLen [0, 0, 1, 0, 0, 1, 0, 0, 1, 1] (.len274 6),
     elementOk atElement .litLen [0, 0, 1, 0, 0, 1, 1, 0, 1, 1] (.len275 6),
     elementOk atElement .litLen [0, 0, 1, 0, 1, 0, 0, 0, 1, 1] (.len276 6)].all id = true := by decide

theorem test_len277_to_len281 :
    [elementOk atElement .litLen [0, 0, 1, 0, 1, 0, 1, 0, 1, 1, 1] (.len277 14),
     elementOk atElement .litLen [0, 0, 1, 0, 1, 1, 0, 0, 1, 1, 1] (.len278 14),
     elementOk atElement .litLen [0, 0, 1, 0, 1, 1, 1, 0, 1, 1, 1] (.len279 14),
     elementOk atElement .litLen [1, 1, 0, 0, 0, 0, 0, 0, 0, 1, 1, 1] (.len280 14),
     elementOk atElement .litLen [1, 1, 0, 0, 0, 0, 0, 1, 0, 1, 1, 1, 1] (.len281 30)].all id = true := by decide

theorem test_len282_to_len285 :
    [elementOk atElement .litLen [1, 1, 0, 0, 0, 0, 1, 0, 0, 1, 1, 1, 1] (.len282 30),
     elementOk atElement .litLen [1, 1, 0, 0, 0, 0, 1, 1, 0, 1, 1, 1, 1] (.len283 30),
     elementOk atElement .litLen [1, 1, 0, 0, 0, 1, 0, 0, 0, 1, 1, 1, 1] (.len284 30),
     elementOk atElement .litLen [1, 1, 0, 0, 0, 1, 0, 1] .len285].all id = true := by decide

theorem test_dist0_to_dist4 :
    [elementOk atDist .dist [0, 0, 0, 0, 0] .dist0,
     elementOk atDist .dist [0, 0, 0, 0, 1] .dist1,
     elementOk atDist .dist [0, 0, 0, 1, 0] .dist2,
     elementOk atDist .dist [0, 0, 0, 1, 1] .dist3,
     elementOk atDist .dist [0, 0, 1, 0, 0, 1] (.dist4 1)].all id = true := by decide

theorem test_dist5_to_dist9 :
    [elementOk atDist .dist [0, 0, 1, 0, 1, 1] (.dist5 1),
     elementOk atDist .dist [0, 0, 1, 1, 0, 0, 1] (.dist6 2),
     elementOk atDist .dist [0, 0, 1, 1, 1, 0, 1] (.dist7 2),
     elementOk atDist .dist [0, 1, 0, 0, 0, 0, 1, 1] (.dist8 6),
     elementOk atDist .dist [0, 1, 0, 0, 1, 0, 1, 1] (.dist9 6)].all id = true := by decide

theorem test_dist10_to_dist14 :
    [elementOk atDist .dist [0, 1, 0, 1, 0, 0, 1, 1, 1] (.dist10 14),
     elementOk atDist .dist [0, 1, 0, 1, 1, 0, 1, 1, 1] (.dist11 14),
     elementOk atDist .dist [0, 1, 1, 0, 0, 0, 1, 1, 1, 1] (.dist12 30),
     elementOk atDist .dist [0, 1, 1, 0, 1, 0, 1, 1, 1, 1] (.dist13 30),
     elementOk atDist .dist [0, 1, 1, 1, 0, 0, 1, 1, 1, 1, 1] (.dist14 62)].all id = true := by decide

theorem test_dist15_to_dist19 :
    [elementOk atDist .dist [0, 1, 1, 1, 1, 0, 1, 1, 1, 1, 1] (.dist15 62),
     elementOk atDist .dist [1, 0, 0, 0, 0, 0, 1, 1, 1, 1, 1, 1] (.dist16 126),
     elementOk atDist .dist [1, 0, 0, 0, 1, 0, 1, 1, 1, 1, 1, 1] (.dist17 126),
     elementOk atDist .dist [1, 0, 0, 1, 0, 0, 1, 1, 1, 1, 1, 1, 1] (.dist18 254),
     elementOk atDist .dist [1, 0, 0, 1, 1, 0, 1, 1, 1, 1, 1, 1, 1] (.dist19 254)].all id = true := by decide

theorem test_dist20_to_dist24 :
    [elementOk atDist .dist [1, 0, 1, 0, 0, 0, 1, 1, 1, 1, 1, 1, 1, 1] (.dist20 510),
     elementOk atDist .dist [1, 0, 1, 0, 1, 0, 1, 1, 1, 1, 1, 1, 1, 1] (.dist21 510),
     elementOk atDist .dist [1, 0, 1, 1, 0, 0, 1, 1, 1, 1, 1, 1, 1, 1, 1] (.dist22 1022),
     elementOk atDist .dist [1, 0, 1, 1, 1, 0, 1, 1, 1, 1, 1, 1, 1, 1, 1] (.dist23 1022),
     elementOk atDist .dist [1, 1, 0, 0, 0, 0, 1, 1, 1, 1, 1, 1, 1, 1, 1, 1] (.dist24 2046)].all id = true := by decide

theorem test_dist25_to_dist29 :
    [elementOk atDist .dist [1, 1, 0, 0, 1, 0, 1, 1, 1, 1, 1, 1, 1, 1, 1, 1] (.dist25 2046),
     elementOk atDist .dist [1, 1, 0, 1, 0, 0, 1, 1, 1, 1, 1, 1, 1, 1, 1, 1, 1] (.dist26 4094),
     elementOk atDist .dist [1, 1, 0, 1, 1, 0, 1, 1, 1, 1, 1, 1, 1, 1, 1, 1, 1] (.dist27 4094),
     elementOk atDist .dist [1, 1, 1, 0, 0, 0, 1, 1, 1, 1, 1, 1, 1, 1, 1, 1, 1, 1] (.dist28 8190),
     elementOk atDist .dist [1, 1, 1, 0, 1, 0, 1, 1, 1, 1, 1, 1, 1, 1, 1, 1, 1, 1] (.dist29 8190)].all id = true := by decide

/-- The row `HDR` (R73): string `110`. -/
theorem test_hdr : elementOk { State.reset with phase := .encoding } .header [1, 1, 0] .hdr = true := by decide

/-- The row `EOB` (R78): string `0000000`. -/
theorem test_eob : elementOk { atElement with ntok := 0 } .litLen [0, 0, 0, 0, 0, 0, 0] .eob = true := by decide

/-- The row `LIT8` at the edges of its range and at `0x41` (R74, R76, section 2.6). -/
theorem test_lit8 :
    [elementOk atElement .litLen [0, 0, 1, 1, 0, 0, 0, 0] (.lit8 0),
     elementOk atElement .litLen [0, 1, 1, 1, 0, 0, 0, 1] (.lit8 0x41),
     elementOk atElement .litLen [1, 0, 1, 1, 1, 1, 1, 1] (.lit8 143)].all id = true := by decide

/-- The row `LIT9` at the edges of its range and at `0x91`, whose code is `110010001` (R74, R77, section 2.1). -/
theorem test_lit9 :
    [elementOk atElement .litLen [1, 1, 0, 0, 1, 0, 0, 0, 0] (.lit9 144),
     elementOk atElement .litLen [1, 1, 0, 0, 1, 0, 0, 0, 1] (.lit9 145),
     elementOk atElement .litLen [1, 1, 1, 1, 1, 1, 1, 1, 1] (.lit9 255)].all id = true := by decide

/-- The token words (R85): bit 23 the tag, bits 22:8 the distance less 1, bits 7:0 the length less 3, or the byte. The
bits stand from bit 0 on. -/
theorem test_token_words :
    [decodesTo .token ([0, 1, 0, 0, 0, 0, 1, 1] ++ [0, 0, 0, 0, 0, 0, 0, 0] ++ [0, 0, 0, 0, 0, 0, 0, 0]) (.tokLit 0xC2),
     decodesTo .token ([1, 0, 0, 0, 0, 0, 0, 1] ++ [0, 1, 0, 0, 0, 0, 0, 0] ++ [0, 0, 0, 0, 0, 0, 1, 1])
       (.tokMatch 0x81 0x4002)].all id = true := by decide

/-- A word with tag 0 and a bit of 22:8 set is no token (R85, R87). -/
theorem test_illegal_token_word :
    (match decodeTokenWord 0x000100 with | .error .illegalTokenWord => true | _ => false) = true := by decide

/-- The host commands (R91): `01` is `START`, `1x` is `RESET`; bit 0 stands first here. -/
theorem test_commands :
    [decodesTo .ctrl [1, 0] .start, decodesTo .ctrl [0, 1] .reset, decodesTo .ctrl [1, 1] .reset].all id = true := by
  decide

/-- The patterns CORE never emits (R87): `BFINAL = 0`, `BTYPE = 2`, symbol 286, distance code 30. -/
theorem test_never_emitted :
    [(match decode .header (bits [0, 1, 0]) with | .error .notFinal => true | _ => false),
     (match decode .header (bits [1, 0, 1]) with | .error (.blockType 2) => true | _ => false),
     (match decode .litLen (bits [1, 1, 0, 0, 0, 1, 1, 0]) with | .error (.unusedLengthSymbol 286) => true | _ => false),
     (match decode .dist (bits [1, 1, 1, 1, 0]) with | .error (.unusedDistanceCode 30) => true | _ => false)].all id
      = true := by decide

/-! The words of the table as numbers, and the steps that run them. -/

/-- Bit 0 of the first byte is stream bit 0: `HDR` is 3, `LEN285` is `0xA3`, `START` is 1, a Match word has bit 23. -/
theorem test_decode_table_words :
    [(decodeTableWord 8 0x03 == some .hdr), (decodeTableWord 8 0xA3 == some .len285),
     (decodeTableWord 8 0x01 == some .start), (decodeTableWord 24 0x800503 == some (.tokMatch 3 5)),
     (decodeTableWord 16 0x0044 == some (.len273 0)), (decodeTableWord 24 0x100003 == none)].all id = true := by decide

/-- A step runs the word placed for it: `LEN273` with length 41, string `0010001 011`, section 2.6. -/
theorem test_step_runs_element :
    nextHas (step (State.reset.withFetchWord 16 0b1101000100)) (fun t => t.stream == bits [0, 0, 1, 0, 0, 0, 1, 0, 1, 1])
      = true := by decide

/-- A step fetches the token at `TOK[tk]` and runs it: `Match(6, 6)`, string `0000100 00100 1`, section 2.6. -/
theorem test_step_runs_token :
    nextHas (step (State.reset.withFetchWord 24 0x800503))
      (fun t => t.stream == bits [0, 0, 0, 0, 1, 0, 0, 0, 0, 1, 0, 0, 1] && t.tk == 1 && t.encStage == .eob) = true := by
  decide

/-! Section 2.1 to 2.5: the unit vectors. -/

theorem test_rev :
    [rev 5 0x01 == 0x10, rev 5 0x13 == 0x19, rev 7 0x17 == 0x74, rev 8 0xC5 == 0xA3, rev 9 0x191 == 0x113].all id
      = true := by decide

theorem test_default_hash :
    [Config.defaultHash 0x20 0 0 == 0, Config.defaultHash 0x41 0x42 0x43 == 0x0C03,
     Config.defaultHash 0x58 0x59 0x5A == 0x6B7A, Config.defaultHash 0xFF 0xFF 0xFF == 0x631F].all id = true := by decide

theorem test_len_lookup :
    [lenLookup 3 == some (257, 0, 0), lenLookup 12 == some (265, 1, 1), lenLookup 34 == some (272, 2, 3),
     lenLookup 114 == some (279, 4, 15), lenLookup 115 == some (280, 4, 0), lenLookup 257 == some (284, 5, 30),
     lenLookup 258 == some (285, 0, 0), lenLookup 2 == none, lenLookup 259 == none].all id = true := by decide

theorem test_dist_lookup :
    [distLookup 1 == some (0, 0, 0), distLookup 6 == some (4, 1, 1), distLookup 96 == some (12, 5, 31),
     distLookup 2049 == some (22, 10, 0), distLookup 24576 == some (28, 13, 8191),
     distLookup 32768 == some (29, 13, 8191), distLookup 0 == none, distLookup 32769 == none].all id = true := by decide

/-- Parameters for tests. -/
def P0 : Config.Params := { nMax := 100, hash := Config.defaultHash }

/-- The bit writer with these registers and bytes. -/
def writer (acc : BitVec 32) (nbits : Nat) (out : List Byte) : State :=
  { atElement with acc := acc, nbits := nbits, out := out.zipIdx.map fun r => (r.2, r.1), outLen := out.length }

/-- The bit writer holds these values. -/
def writerIs (acc : BitVec 32) (nbits : Nat) (out : List Byte) (t : State) : Bool :=
  t.acc == acc && t.nbits == nbits && t.outBytes == out

/-- Section 2.5, rows 3, 5 and 6. -/
theorem test_pack :
    [runningHas (pack P0 0x1FFF 13 (writer 3 3 [])) (writerIs 0 0 [0xFB, 0xFF]),
     runningHas (pack P0 5 3 (writer 0 1 [0xFB, 0xFF])) (writerIs 0xA 4 [0xFB, 0xFF]),
     runningHas (pack P0 0xFFFF 16 (writer 0xA 4 [0xFB, 0xFF])) (writerIs 0xF 4 [0xFB, 0xFF, 0xFA, 0xFF])].all id
      = true := by decide

/-- Section 2.5: `PACK(0, 0)` changes nothing; `PACK(2, 1)` and a `PACK` after `FLUSH` raise `E_MISUSE`. -/
theorem test_pack_checks :
    [runningHas (pack P0 0 0 (writer 0xA 4 [1])) (· == writer 0xA 4 [1]),
     raised (pack P0 2 1 (writer 0xA 4 [1])) (writer 0xA 4 [1]) .eMisuse,
     raised (pack P0 0 17 (writer 0xA 4 [1])) (writer 0xA 4 [1]) .eMisuse,
     raised (pack P0 0 1 { writer 0 0 [1] with flushed := true }) { writer 0 0 [1] with flushed := true } .eMisuse].all id
      = true := by decide

/-- R7, R181: `OUT` of an implementation with `N_MAX = 0` holds `ceil(10 / 8) = 2` bytes. -/
theorem test_out_capacity :
    [runningHas (pack { P0 with nMax := 0 } 0 8 (writer 0 0 [1])) (writerIs 0 0 [1, 0]),
     raised (pack { P0 with nMax := 0 } 0 8 (writer 0 0 [1, 2])) (writer 0 0 [1, 2]) .eCapacity].all id = true := by decide

/-- Section 2.5: `FLUSH`, and `FLUSH` with nothing pending. -/
theorem test_flush :
    [runningHas (flush P0 (writer 0xF 4 [0xFB])) (fun t => writerIs 0 0 [0xFB, 0x0F] t && t.flushed),
     runningHas (flush P0 (writer 0 0 [0xFB])) (· == { writer 0 0 [0xFB] with flushed := true })].all id = true := by
  decide

/-! Section 2.6: the tokens, each one step. -/

/-- The token writes the string. -/
def tokenWrites (i : Instr) (l : List Nat) : Bool := nextHas (exec i atElement) fun t => t.stream == bits l

theorem test_tok_lit :
    [tokenWrites (.tokLit 0x8F) [1, 0, 1, 1, 1, 1, 1, 1], tokenWrites (.tokLit 0x90) [1, 1, 0, 0, 1, 0, 0, 0, 0]].all id
      = true := by decide

/-- `ENC_MATCH` writes the string. -/
def matchWrites (len dist : Nat) (l : List Nat) : Bool :=
  match encMatch P0 len dist atElement with
  | some f => runningHas f fun t => t.stream == bits l
  | none => false

theorem test_tok_match :
    [tokenWrites (.tokMatch 8 8) [0, 0, 0, 1, 0, 0, 1, 0, 0, 0, 1, 1, 0, 0, 0],
     tokenWrites (.tokMatch 112 4) [1, 1, 0, 0, 0, 0, 0, 0, 0, 0, 0, 0, 0, 0, 1, 0, 0, 0],
     matchWrites 257 24576
       ([1, 1, 0, 0, 0, 1, 0, 0, 0, 1, 1, 1, 1, 1, 1, 1, 0, 0] ++ [1, 1, 1, 1, 1, 1, 1, 1, 1, 1, 1, 1, 1]),
     matchWrites 258 32768
       ([1, 1, 0, 0, 0, 1, 0, 1, 1, 1, 1, 0, 1] ++ [1, 1, 1, 1, 1, 1, 1, 1, 1, 1, 1, 1, 1])].all id = true := by decide

/-! Section 4: single steps of P1 to P5. -/

/-- P1 before step 7: "ABCDEFABCDEF" with six literals emitted. -/
def p1 : State :=
  { State.reset with
    phase := .matching
    inSize := 12
    size := 12
    p := 6
    ntok := 6
    input := [(0, 0x41), (1, 0x42), (2, 0x43), (3, 0x44), (4, 0x45), (5, 0x46), (6, 0x41), (7, 0x42), (8, 0x43)] ++
      [(9, 0x44), (10, 0x45), (11, 0x46)]
    head := [(0x0024, 1), (0x04C5, 2), (0x0C03, 0), (0x1062, 5), (0x18E6, 3), (0x1C81, 4)]
    prev := [(0, none), (1, none), (2, none), (3, none), (4, none), (5, none)]
    tok := [(0, 0x41), (1, 0x42), (2, 0x43), (3, 0x44), (4, 0x45), (5, 0x46)] }

/-- P1, step 7: `M 6,6`, and positions 6 to 9 are inserted. -/
theorem test_match_step_p1 :
    matchedTo (matchStep P0 p1) (fun t => t.p == 12 && t.ntok == 7 && Memory.read t.tok 6 == some 0x800503 &&
      t.head == [(0x0024, 7), (0x04C5, 8), (0x0C03, 6), (0x1062, 5), (0x18E6, 9), (0x1C81, 4)] &&
      t.prev.drop 6 == [(6, some 0), (7, some 1), (8, some 2), (9, some 3)]) = true := by decide

/-- P2 before step 2: "AAAAAAA" with the first literal emitted. -/
def p2 : State :=
  { State.reset with
    phase := .matching
    inSize := 7
    size := 7
    p := 1
    ntok := 1
    input := [(0, 0x41), (1, 0x41), (2, 0x41), (3, 0x41), (4, 0x41), (5, 0x41), (6, 0x41)]
    head := [(0x0C61, 0)]
    prev := [(0, none)]
    tok := [(0, 0x41)] }

/-- P2, step 2: the comparison reads past `p`; `M 6,1`; positions 1 to 4 are inserted, 5 and 6 are not. -/
theorem test_match_step_p2 :
    matchedTo (matchStep P0 p2) (fun t => t.p == 7 && Memory.read t.tok 1 == some 0x800003 && t.head == [(0x0C61, 4)] &&
      t.prev == [(0, none), (1, some 0), (2, some 1), (3, some 2), (4, some 3)] && t.scratch.cap == 6 &&
      t.scratch.chain == 1 && t.scratch.k == 6 && t.scratch.d == 1) = true := by decide

/-- R58: a search that reads a byte never written is stuck, and so is the whole step. -/
theorem test_unwritten_input_faults :
    (match matchStep P0 { p2 with input := [(0, 0x41)] } with | .error (.noValue .input) => true | _ => false) = true := by
  decide

/-- V1 and P4: the empty input's `ENCODE` ends with `03 00`. -/
theorem test_flush_step_of_the_empty_input :
    nextHas (step { State.reset with phase := .encoding, encStage := .flush, out := [(0, 3)], outLen := 1, nbits := 2 })
      (fun t => t.phase == .done && t.flushed && t.outBytes == [0x03, 0x00]) = true := by decide

/-- R162: `MATCH` at the end of the input passes to `ENCODE`. -/
theorem test_enter_encode :
    nextHas (step { State.reset with phase := .matching }) (fun t => t.phase == .encoding && t.encStage == .hdr)
      = true := by decide

/-- P5: `START` with `IN_SIZE = N_MAX + 1`, here with `N_MAX = 100`, faults `E_SIZE` and changes nothing else. -/
theorem test_start_too_large :
    (startRun P0 { State.reset with inSize := 101 } ==
      { State.reset with inSize := 101, phase := .error, err := .eSize }) = true := by decide

/-- R164: `START` in `DONE` with `IN_SIZE = N_MAX` begins a run and forgets the last one. -/
theorem test_start_accepted :
    (let t := startRun P0 { p1 with phase := .done, inSize := 100, flushed := true, tk := 7, outLen := 9 }
     t.phase == .matching && t.size == 100 && t.p == 0 && t.tk == 0 && t.head == [] && !t.flushed && t.outLen == 0 &&
      t.input == p1.input) = true := by decide

/-- P5: `START` in `ERROR` is ignored. -/
theorem test_start_ignored_in_error :
    nextHas (exec .start { State.reset with phase := .error, err := .eSize })
      (· == { State.reset with phase := .error, err := .eSize }) = true := by decide

/-- P5: `CTRL = 3` in `ERROR` is a `RESET`. -/
theorem test_ctrl_three_resets :
    nextHas (step { State.reset with phase := .error, err := .eSize, inSize := 101, inbox := [⟨0, .writeCtrl 3⟩] })
      (fun t => t.phase == .idle && t.err == .eNone && t.inSize == 0 && t.inbox == []) = true := by decide

/-- P5: `STATUS` reads 4 in `ERROR`, and `ERR` reads 1. -/
theorem test_read_status_and_err :
    [nextHas (step { State.reset with phase := .error, err := .eSize, inbox := [⟨0, .readStatus⟩] })
       (fun t => t.rdata == some 4 && t.phase == .error),
     nextHas (step { State.reset with phase := .error, err := .eSize, inbox := [⟨0, .readErr⟩] })
       (fun t => t.rdata == some 1)].all id = true := by decide

/-- R165: `OUT[i]` in `DONE`. -/
theorem test_read_out :
    nextHas (step { State.reset with phase := .done, out := [(0, 0x4B), (1, 4)], outLen := 2, inbox := [⟨0, .readOut 1⟩] })
      (fun t => t.rdata == some 4) = true := by decide

/-- Log 3: a transaction that waits lets CORE go on and comes one step nearer. -/
theorem test_waiting_transaction :
    nextHas (step { State.reset with phase := .matching, inbox := [⟨2, .writeCtrl 2⟩] })
      (fun t => t.phase == .encoding && t.inbox == [⟨1, .writeCtrl 2⟩]) = true := by decide

/-! R37, R88: replay and the stream read back. -/

/-- V8: `[L 41, M 6,1]` replays to seven `41`, and its block is `73 84 00 00`. -/
theorem test_replay_and_block :
    (replay [.literal 0x41, .backRef 6 1] == some (List.replicate 7 0x41) &&
      blockBits [.literal 0x41, .backRef 6 1] == bitsOfBytes [0x73, 0x84, 0x00, 0x00]) = true := by decide

/-- V8 read back. -/
theorem test_inflate :
    (match inflate (bitsOfBytes [0x73, 0x84, 0x00, 0x00]) with
      | .ok (o, pad) => o == List.replicate 7 0x41 && pad == [false, false]
      | .error _ => false) = true := by decide

/-! WITNESSES. For each statement with hypotheses, a state and operands that meet them, clause by clause. `N_MAX` is
open, and 0 is one of its values: what needs a byte of input is shown for every implementation with `N_MAX > 0`. -/

/-- Bit writers that take `n` bits: nothing stored, at most 16 bits in all. -/
theorem ready_of_small (s : State) (n : Nat) (h : BitWriterInv s) (hf : s.flushed = false) (ho : s.outLen = 0)
    (hn : s.nbits + n < 24) : WriterReady Config.params s n := by
  refine ⟨h, hf, ?_⟩
  simp only [Config.outCapacity, ho]
  omega

theorem reset_writer : BitWriterInv State.reset := ⟨by decide, by decide⟩

theorem element_ready (n : Nat) (h : n < 24) : WriterReady Config.params atElement n :=
  ready_of_small _ _ ⟨by decide, by decide⟩ rfl rfl (by simpa [atElement, State.reset] using h)

/-- "0000" after its first step, `HASH` being the default. -/
def p7 : State :=
  { State.reset with
    phase := .matching
    inSize := 4
    size := 4
    p := 1
    ntok := 1
    input := [(0, 0), (1, 0), (2, 0), (3, 0)]
    head := [(0, 0)]
    prev := [(0, none)]
    tok := [(0, 0)] }

/-- A finished run with one byte of output. -/
def finished : State :=
  { State.reset with phase := .done, flushed := true, encStage := .flush, out := [(0, 3), (1, 0)], outLen := 2 }

/-- StartBeginsFaultsOrIsIgnored: the three clauses, the two about the size at their boundary. -/
theorem witness_start :
    (let s := { State.reset with inSize := Config.params.nMax }
     (s.phase = .idle ∨ s.phase = .done) ∧ s.inSize ≤ Config.params.nMax) ∧
    (let s := { State.reset with phase := .done, inSize := Config.params.nMax + 1 }
     (s.phase = .idle ∨ s.phase = .done) ∧ Config.params.nMax < s.inSize) ∧
    (p1.phase = .matching ∨ p1.phase = .encoding ∨ p1.phase = .error) :=
  ⟨⟨.inl rfl, Nat.le_refl _⟩, ⟨.inr rfl, Nat.lt_succ_self _⟩, .inl rfl⟩

/-- CtrlWriteIssuesCommand: `CTRL` written with 3, 1 and 4. -/
theorem witness_ctrl_write :
    [3, 1, 4].all (fun v => (State.reset.request (.writeCtrl v)).due == some (.writeCtrl v, State.reset)) = true ∧
    Nat.testBit 3 1 = true ∧ (Nat.testBit 1 1 = false ∧ Nat.testBit 1 0 = true) ∧
    (Nat.testBit 4 1 = false ∧ Nat.testBit 4 0 = false) := by decide

/-- RaiseDoesNothingElse: a `PACK`, a `FLUSH` and an `EMIT` that raise, and a step in `ERROR`. -/
theorem witness_raise :
    (∃ u, pack P0 0 17 State.reset = .stopped u) ∧
    (∃ u, flush { P0 with nMax := 0 } (writer 1 1 [1, 2]) = .stopped u) ∧
    (p7.phase ≠ .error ∧ ∃ t, matchStep { P0 with nMax := 1 } p7 = .ok t ∧ t.phase = .error) ∧
    (∃ t, ({ State.reset with phase := .error } : State).phase = .error ∧
      step { State.reset with phase := .error } = .next t) :=
  ⟨⟨_, rfl⟩, ⟨_, rfl⟩, ⟨by decide, _, rfl, rfl⟩, ⟨_, rfl, rfl⟩⟩

/-- PackChecksInOrder: each clause at the boundary of its check. -/
theorem witness_pack_checks :
    ({ State.reset with flushed := true }).flushed = true ∧
    (State.reset.flushed = false ∧ 16 < 17) ∧
    (16 ≤ 16 ∧ 2 ^ 16 ≤ 65536) ∧ (0 ≤ 16 ∧ 2 ^ 0 ≤ 1) ∧
    (65535 < 2 ^ 16 ∧ Config.outCapacity { P0 with nMax := 0 } < (writer 0 0 [1]).outLen + ((writer 0 0 [1]).nbits + 16) / 8) := by
  decide

/-- ErrWrittenOnErrorEntryClearedByReset: `ERR` is written by a `START`, and cleared by a `RESET`. -/
theorem witness_err :
    (∃ t, step ({ State.reset with inSize := Config.params.nMax + 1 }.request (.writeCtrl 1)) = .next t ∧
      t.err ≠ ErrCode.eNone) ∧
    (∃ t, step ({ State.reset with phase := .error, err := .eMisuse }.request (.writeCtrl 2)) = .next t ∧
      t.err ≠ ErrCode.eMisuse) := by
  refine ⟨⟨{ State.reset with inSize := Config.params.nMax + 1, phase := .error, err := .eSize }, ?_, by decide⟩,
    ⟨_, rfl, by decide⟩⟩
  show exec .start { State.reset with inSize := Config.params.nMax + 1 } = _
  simp [exec, execStart, startRun, State.reset, State.raise]

/-- PhaseChangesOnlyAsListed: a step of each row of R162. -/
theorem witness_phase_changes :
    (∃ t, step (State.reset.request (.writeCtrl 1)) = .next t ∧ t.phase ≠ .idle) ∧
    (∃ t, step ({ State.reset with inSize := Config.params.nMax + 1 }.request (.writeCtrl 1)) = .next t ∧
      t.phase ≠ .idle) ∧
    nextHas (step { State.reset with phase := .matching }) (·.phase != .matching) = true ∧
    nextHas (step { State.reset with phase := .encoding, encStage := .flush }) (·.phase != .encoding) = true ∧
    nextHas (step { State.reset with phase := .encoding, flushed := true }) (·.phase != .encoding) = true ∧
    nextHas (step (p1.request (.writeCtrl 2))) (·.phase != .matching) = true := by
  refine ⟨⟨State.reset.beginRun, ?_, by decide⟩,
    ⟨{ State.reset with inSize := Config.params.nMax + 1, phase := .error, err := .eSize }, ?_, by decide⟩,
    by decide, by decide, by decide, by decide⟩
  · show exec .start State.reset = _
    simp [exec, execStart, startRun, State.reset]
  · show exec .start { State.reset with inSize := Config.params.nMax + 1 } = _
    simp [exec, execStart, startRun, State.reset, State.raise]

/-- EncodeFollowsMatchAndIdleWaits, each clause with a transaction waiting: a `MATCH_STEP` that goes on at the last
cursor, one that is stuck (the empty `IN`), the end of `MATCH`, the phase `DONE`; and no transaction at all. -/
theorem witness_core_alone :
    (let s := { State.reset with phase := .matching, size := 1, input := [(0, 0x61)], inbox := [⟨1, .readErr⟩] }
     s.due = none ∧ s.phase = .matching ∧ s.p < s.size ∧ ∃ t, matchStep Config.params s.tick = .ok t) ∧
    (let s := { State.reset with phase := .matching, size := 1, inbox := [⟨1, .readErr⟩] }
     s.due = none ∧ s.phase = .matching ∧ s.p < s.size ∧
       matchStep Config.params s.tick = .error (.noValue .input)) ∧
    (let s := { p1 with p := 12, inbox := [⟨1, .readErr⟩] }; s.due = none ∧ s.phase = .matching ∧ s.p = s.size) ∧
    (let s := { finished with inbox := [⟨1, .readErr⟩] }
     s.due = none ∧ (s.phase = .idle ∨ s.phase = .done ∨ s.phase = .error)) ∧
    State.reset.inbox = [] := by
  refine ⟨⟨rfl, rfl, by decide, ?_⟩, ⟨rfl, rfl, by decide, rfl⟩, by decide, by decide, rfl⟩
  have hm : ∀ s : State, s.p = 0 → s.size = 1 → s.ntok = 0 → s.input = [(0, 0x61)] →
      ∃ t, matchStep Config.params s = .ok t := by
    intro s h1 h2 h3 h4
    by_cases hr : 0 < Config.tokCapacity Config.params <;>
    simp [matchStep, search, chooseToken, readIn, insertFrom, insertAt, appendToken, covers, Memory.read, Except.bind,
      Config.minMatch, h1, h2, h3, h4, hr]
  exact hm _ rfl rfl rfl rfl

/-- StepRunsDecodedInstruction: a command, a driven element, the header, a token with a transaction waiting, the `EOB`. -/
theorem witness_step_runs :
    ((p1.request (.writeCtrl 2)).due = some (.writeCtrl 2, p1) ∧ decodeCtrl 2 = .ok .reset) ∧
    ((atDist.request (.drive (bits [0, 0, 1, 0, 0, 1]))).due = some (.drive (bits [0, 0, 1, 0, 0, 1]), atDist) ∧
      decode (encoderPosition atDist) (bits [0, 0, 1, 0, 0, 1]) = .ok (.dist4 1, [])) ∧
    (let s := { State.reset with phase := .encoding }; s.due = none ∧ s.phase = .encoding ∧ s.encStage = .hdr) ∧
    (let s := { atElement with tok := [(0, 0x800503)], inbox := [⟨2, .readErr⟩] }
     s.due = none ∧ s.phase = .encoding ∧ s.encStage = .tokens ∧ s.tk < s.ntok ∧
      Memory.read s.tok s.tk = some 0x800503 ∧ decodeTokenWord 0x800503 = .ok (.tokMatch 3 5)) ∧
    (let s := { atElement with ntok := 0 }; s.due = none ∧ s.encStage = .tokens ∧ s.ntok ≤ s.tk) ∧
    (let s := { atElement with encStage := .eob }; s.due = none ∧ s.phase = .encoding ∧ s.encStage = .eob) :=
  ⟨⟨rfl, rfl⟩, ⟨rfl, rfl⟩, by decide, ⟨by decide, by decide, by decide, by decide, rfl, rfl⟩, by decide, by decide⟩

/-- DecodeOfEncodeIsIdentity, DecodedBitsAreTheEncoding: instructions at the edge, and bits of each position. -/
theorem witness_encoding :
    (Instr.len284 30).wellFormed = true ∧ (Instr.dist29 0x1FFF).wellFormed = true ∧
    decode .header [true, true, false] = .ok (.hdr, []) ∧
    decode .litLen (bits [1, 1, 1, 1, 1, 1, 1, 1, 1, 0]) = .ok (.lit9 255, [false]) ∧
    decode .dist (bits [0, 0, 0, 0, 0]) = .ok (.dist0, []) ∧
    decode .token (lsbBits 24 0x800503) = .ok (.tokMatch 3 5, []) :=
  ⟨by decide, by decide, rfl, rfl, rfl, rfl⟩

/-- NeverEmittedPatternsRejected, TokenWordRoundTrip: words with tag 0 and tag 1, tokens at the edge. -/
theorem witness_token_words :
    (BitVec.getLsbD (0x000100#24) 23 = false ∧ BitVec.extractLsb' 8 15 (0x000100#24) ≠ 0#15) ∧
    BitVec.getLsbD (0xFFFFFF#24) 23 = true ∧
    (Token.backRef 3 1).legal = true ∧ (Token.backRef 258 32768).legal = true ∧ (Token.literal 255).legal = true := by
  decide

/-- ElementWidths: lookups that answer, at the edges. -/
theorem witness_lookups :
    lenLookup 258 = some (285, 0, 0) ∧ lenLookup 3 = some (257, 0, 0) ∧
    distLookup 1 = some (0, 0, 0) ∧ distLookup 32768 = some (29, 13, 8191) ∧ (Token.backRef 258 32768).legal = true := by
  decide

/-- PackAppendsLowBitsFirst, PackCodeAppendsHighBitsFirst: seven bits pending, the widest operands. -/
theorem witness_pack :
    (16 ≤ 16 ∧ 65535 < 2 ^ 16 ∧ WriterReady P0 (writer 0x7F 7 [1]) 16) ∧
    (511 < 2 ^ 9 ∧ WriterReady P0 (writer 0x7F 7 [1]) 9) :=
  ⟨⟨by decide, by decide, ⟨by decide, by decide⟩, by decide, by decide⟩,
    ⟨by decide, ⟨by decide, by decide⟩, by decide, by decide⟩⟩

/-- FlushCompletesTheLastByte: seven bits pending, and none. -/
theorem witness_flush :
    (BitWriterInv (writer 0x7F 7 [1]) ∧ (writer 0x7F 7 [1]).outLen + ((writer 0x7F 7 [1]).nbits + 7) / 8 ≤ Config.outCapacity P0) ∧
    (BitWriterInv (writer 0 0 [1]) ∧ (writer 0 0 [1]).outLen + ((writer 0 0 [1]).nbits + 7) / 8 ≤ Config.outCapacity P0) ∧
    (writer 0 0 [1]).nbits = 0 :=
  ⟨⟨⟨by decide, by decide⟩, by decide⟩, ⟨⟨by decide, by decide⟩, by decide⟩, by decide⟩

/-- HeaderElementWritesFinalFixed, also with an empty bit writer. -/
theorem witness_header :
    (let s := { State.reset with phase := .encoding }
     atHeader s = true ∧ WriterReady Config.params s 3 ∧ s.acc = 0 ∧ s.nbits = 0 ∧ s.outLen = 0) :=
  ⟨by decide, ready_of_small _ _ ⟨by decide, by decide⟩ rfl rfl (by decide), rfl, rfl, rfl⟩

/-- LiteralElementsWriteTheirCodes: the two sides of the split. -/
theorem witness_literals :
    (atLitLen atElement = true ∧ BitVec.toNat (143 : Byte) ≤ 143 ∧ WriterReady Config.params atElement 8) ∧
    (atLitLen atElement = true ∧ 144 ≤ BitVec.toNat (144 : Byte) ∧ WriterReady Config.params atElement 9) :=
  ⟨⟨by decide, by decide, element_ready 8 (by decide)⟩, ⟨by decide, by decide, element_ready 9 (by decide)⟩⟩

/-- LengthElementsWriteCodeAndExtra: the row with a limited extra value, and the row without one. -/
theorem witness_length :
    ((Instr.len284 30).shape = .length 284 5 30 ∧ (Instr.len284 30).wellFormed = true ∧ atLitLen atElement = true ∧
      WriterReady Config.params atElement (lengthCodeBits 284 ++ lsbBits 5 30).length) ∧
    (Instr.len285.shape = .length 285 0 0 ∧ Instr.len285.wellFormed = true ∧
      WriterReady Config.params atElement (lengthCodeBits 285 ++ lsbBits 0 0).length) :=
  ⟨⟨rfl, by decide, by decide, element_ready _ (by decide)⟩, ⟨rfl, by decide, element_ready _ (by decide)⟩⟩

/-- DistanceElementsWriteCodeAndExtra: the widest row and the narrowest. -/
theorem witness_distance :
    ((Instr.dist29 0x1FFF).shape = .distance 29 13 0x1FFF ∧ atDistance atDist = true ∧
      WriterReady Config.params atDist (5 + 13)) ∧
    (Instr.dist0.shape = .distance 0 0 0 ∧ WriterReady Config.params atDist (5 + 0)) :=
  ⟨⟨rfl, by decide, ready_of_small _ _ ⟨by decide, by decide⟩ rfl rfl (by decide)⟩,
    ⟨rfl, ready_of_small _ _ ⟨by decide, by decide⟩ rfl rfl (by decide)⟩⟩

/-- EndOfBlockWritesSevenZeros. -/
theorem witness_eob :
    (let s := { atElement with ntok := 0 }; atEob s = true ∧ WriterReady Config.params s 7) ∧
    (let s := { atElement with encStage := .eob }; atEob s = true ∧ WriterReady Config.params s 7) :=
  ⟨⟨by decide, ready_of_small _ _ ⟨by decide, by decide⟩ rfl rfl (by decide)⟩,
    ⟨by decide, ready_of_small _ _ ⟨by decide, by decide⟩ rfl rfl (by decide)⟩⟩

/-- TokensAreEncodedInOneTurn: a literal and a match. -/
theorem witness_tokens :
    ((Instr.tokLit 255).token = some (.literal 255) ∧ atLitLen atElement = true ∧
      WriterReady Config.params atElement (tokenBits (.literal 255)).length) ∧
    ((Instr.tokMatch 3 5).token = some (.backRef 6 6) ∧
      WriterReady Config.params atElement (tokenBits (.backRef 6 6)).length) :=
  ⟨⟨rfl, by decide, element_ready _ (by decide)⟩, ⟨rfl, element_ready _ (by decide)⟩⟩

/-- MatchTokenRunsItsTwoElements. -/
theorem witness_match_token :
    ∃ t, atLitLen atElement = true ∧ exec (.tokMatch 3 5) atElement = .next t ∧ t.phase ≠ .error :=
  ⟨_, by decide, rfl, by decide⟩

/-- FlushedEncoderRaisesMisuse, for each position of an element. -/
theorem witness_flushed :
    [(Instr.hdr, { State.reset with phase := .encoding, flushed := true }),
     (.lit8 143, { atElement with flushed := true }), (.dist0, { atDist with flushed := true }),
     (.eob, { atElement with encStage := .eob, flushed := true }), (.tokMatch 3 5, { atElement with flushed := true })].all
      (fun r => r.1.wellFormed && r.1.position != .ctrl && enabledAt r.1 r.2 && r.2.flushed) = true := by decide

/-- ElementsOutOfPlaceRefused: out of its place, and with an operand it does not cover. -/
theorem witness_out_of_place :
    ((Instr.dist0.wellFormed = true ∧ enabledAt .dist0 atElement = false) ∧
      (Instr.len285.wellFormed = true ∧ enabledAt .len285 State.reset = false)) ∧
    ((Instr.lit8 144).wellFormed = false ∧ (Instr.lit9 143).wellFormed = false ∧ (Instr.len284 31).wellFormed = false) := by
  decide

/-- FlushStageEndsTheRun: seven bits pending. -/
theorem witness_flush_stage :
    (let s := { atElement with encStage := .flush, nbits := 7, acc := 0x7F }
     s.due = none ∧ s.phase = .encoding ∧ s.encStage = .flush ∧ BitWriterInv s ∧
      s.outLen + (s.nbits + 7) / 8 ≤ Config.outCapacity Config.params) := by
  refine ⟨rfl, rfl, rfl, ⟨by decide, by decide⟩, ?_⟩
  show 0 + (7 + 7) / 8 ≤ _
  simp only [Config.outCapacity]
  omega

/-- HostLoadWritesOutsideARun: the last byte of an input space that has one; a write of `IN_SIZE` outside and inside a
run. -/
theorem witness_host_load :
    (∀ n, Config.params.nMax = n + 1 →
      (let s := State.reset.request (.writeIn n 0x61)
       s.due = some (.writeIn n 0x61, State.reset) ∧ s.phase.running = false ∧ n < Config.params.nMax)) ∧
    (let s := State.reset.request (.writeInSize 1)
     s.due = some (.writeInSize 1, State.reset) ∧ s.phase.running = false ∧ 1 < 2 ^ Config.posW Config.params) ∧
    (let s := p1.request (.writeInSize 1)
     s.due = some (.writeInSize 1, p1) ∧ s.phase.running = true) := by
  refine ⟨fun n h => ⟨rfl, rfl, by omega⟩, ⟨rfl, rfl, ?_⟩, ⟨rfl, rfl⟩⟩
  exact Nat.one_lt_two_pow (by simp [Config.posW])

/-- HostLoadStopsOutsideItsRange: during a run, and at the first index beyond the space. -/
theorem witness_host_load_stops :
    (let s := p1.request (.writeIn 0 0x61); s.due = some (.writeIn 0 0x61, p1) ∧ s.phase.running = true) ∧
    (let s := State.reset.request (.writeIn Config.params.nMax 0x61)
     s.due = some (.writeIn Config.params.nMax 0x61, State.reset) ∧ s.phase.running = false ∧
      Config.params.nMax ≤ Config.params.nMax) :=
  ⟨⟨rfl, rfl⟩, ⟨rfl, rfl, Nat.le_refl _⟩⟩

/-- HostReadsReturnTheRegisters: each read, `OUT` at its last index. -/
theorem witness_host_reads :
    [Request.readCtrl, .readStatus, .readErr, .readInSize, .readOutSize, .readOut 1].all
      (fun r => (finished.request r).due == some (r, finished)) = true ∧
    finished.phase.running = false ∧ finished.phase = .done ∧ 1 < finished.outLen ∧
    Memory.read finished.out 1 = some 0 := by decide

/-- The encoder of an empty input after its header: a state of a run, not the reset state. -/
def emptyRun : State := { State.reset with phase := .encoding, encStage := .eob, acc := 3, nbits := 3 }

theorem emptyRun_inv : Inv Config.params emptyRun where
  writer := ⟨by decide, by decide⟩
  spaces :=
    { canonical := by decide
      input := by simp [emptyRun, State.reset]
      head := by simp [emptyRun, State.reset]
      tokFilled := by simp [emptyRun, State.reset]
      tokLegal := by simp [emptyRun, State.reset]
      outFilled := by simp [emptyRun, State.reset]
      outCapacity := by simp [emptyRun, State.reset] }
  chains :=
    { head := by simp [emptyRun, State.reset]
      prev := by simp [emptyRun, State.reset]
      inserted := by simp [emptyRun, State.reset] }
  control :=
    { cursor := by decide
      size := Nat.zero_le _
      tokens := by decide
      encoded := by decide
      inSize := Nat.two_pow_pos _
      err := by decide
      running := by decide
      covering := by decide }

/-- HostReadsHaveNoSideEffect, in the middle of a run. -/
theorem witness_host_reads_inv :
    Inv Config.params (emptyRun.request .readOutSize) ∧
    (emptyRun.request .readOutSize).due = some (.readOutSize, emptyRun) :=
  ⟨⟨⟨emptyRun_inv.writer.pending, emptyRun_inv.writer.clean⟩, ⟨emptyRun_inv.spaces.canonical, emptyRun_inv.spaces.input, emptyRun_inv.spaces.head,
      emptyRun_inv.spaces.tokFilled, emptyRun_inv.spaces.tokLegal, emptyRun_inv.spaces.outFilled,
      emptyRun_inv.spaces.outCapacity⟩,
    ⟨emptyRun_inv.chains.head, emptyRun_inv.chains.prev, emptyRun_inv.chains.inserted⟩,
    ⟨emptyRun_inv.control.cursor, emptyRun_inv.control.size, emptyRun_inv.control.tokens, emptyRun_inv.control.encoded,
      emptyRun_inv.control.inSize, emptyRun_inv.control.err, emptyRun_inv.control.running,
      emptyRun_inv.control.covering⟩⟩, rfl⟩

/-- InputChangesOnlyByTheHost: a `RESET` that clears `IN`. -/
theorem witness_input_changes :
    nextHas (step (p2.request (.writeCtrl 2))) (fun t => t.input != p2.input && t.inSize != p2.inSize) = true := by decide

/-- TokensAndOutputAreAppendOnly: a step of the encoder that is no host command. -/
theorem witness_append_only :
    ∃ t, step { atElement with tok := [(0, 0x41)] } = .next t ∧
      ¬ StepRuns .start { atElement with tok := [(0, 0x41)] } ∧ ¬ StepRuns .reset { atElement with tok := [(0, 0x41)] } ∧
      t.outLen = 1 := by
  refine ⟨_, rfl, ?_, ?_, rfl⟩ <;>
  · rintro ⟨u, h⟩
    have : (Fetched.run (.tokLit 0x41) { atElement with tok := [(0, 0x41)] } : Fetched) = .run _ u := h
    injection this with this
    cases this

/-- ShortTailIsEmittedAsLiterals: two bytes left, and one. -/
theorem witness_short_tail :
    (let s := { p7 with p := 2 }
     s.p < s.size ∧ s.size < s.p + 3 ∧ Memory.read s.input s.p = some 0 ∧ s.ntok < P0.nMax) ∧
    (let s := { p7 with p := 3 }
     s.p < s.size ∧ s.size < s.p + 3 ∧ Memory.read s.input s.p = some 0 ∧ s.ntok < P0.nMax) := by decide

/-- InsertLinksToTheOldHead: the last position that is inserted, and the first that is not. -/
theorem witness_insert :
    (1 < P0.nMax ∧ 1 + 3 ≤ p7.size ∧ Memory.read p7.input 1 = some 0 ∧ Memory.read p7.input 2 = some 0 ∧
      Memory.read p7.input 3 = some 0) ∧
    (2 < P0.nMax ∧ p7.size < 2 + 3) := by decide

theorem p7_inv : Inv P0 p7 where
  writer := ⟨by decide, by decide⟩
  spaces :=
    { canonical := by decide
      input := by
        intro i b
        simp only [p7, Memory.read]
        have : P0.nMax = 100 := rfl
        split_ifs <;> intro h <;> first | omega | cases h
      head := by
        intro h q
        simp only [p7, Memory.read]
        split_ifs <;> intro h <;> first | omega | cases h
      tokFilled := by
        intro i
        simp only [p7, Memory.read]
        split_ifs with h
        · subst h; rfl
        · simp; omega
      tokLegal := by
        intro i w
        simp only [p7, Memory.read]
        split_ifs <;> intro h <;> cases h
        exact ⟨.literal 0, rfl, rfl⟩
      outFilled := by simp [p7, State.reset]
      outCapacity := by decide }
  chains :=
    { head := by
        intro h q
        simp only [p7, Memory.read]
        split_ifs <;> intro h <;> cases h
        decide
      prev := by
        intro q v
        simp only [p7, Memory.read]
        split_ifs with h0 <;> intro h <;> cases h
        subst h0
        simp
      inserted := by
        intro q hq _
        have : q = 0 := by simp only [p7] at hq; omega
        subst this
        rfl }
  control := ⟨by decide, by decide, by decide, by decide, by decide, by decide, by decide, by decide⟩

theorem p7_loaded : Loaded p7 := by
  intro i hi
  have : i = 0 ∨ i = 1 ∨ i = 2 ∨ i = 3 := by simp only [p7] at hi; omega
  rcases this with rfl | rfl | rfl | rfl <;> rfl

theorem p7_chains : ChainsExact P0 p7 where
  head := by
    intro h
    have h0 : hashAt P0 p7 0 = 0 := by decide
    have hs : p7.size = 4 := rfl
    have hp : p7.p = 1 := rfl
    have hh : p7.head = [(0, 0)] := rfl
    simp only [readHead, hp, hh, chainBelow, Memory.read, h0, hs]
    by_cases hz : h = 0
    · subst hz; rfl
    · have hn : ¬ (0 = h.toNat) := fun e => hz (BitVec.eq_of_toNat_eq e.symm)
      have hz' : ¬ 0#15 = h := fun e => hz e.symm
      simp [hn, hz']
  prev := by
    intro q hq _
    have : q = 0 := by simp only [p7] at hq; omega
    subst this
    rfl

/-- MatchStepEmitsAValidToken, HashChainsStayExact, MatchStepHasTheClosedForm: in the middle of a run, with a candidate
whose length is 3. -/
theorem witness_match_step :
    Inv P0 p7 ∧ Loaded p7 ∧ ChainsExact P0 p7 ∧ p7.p < p7.size ∧ (∃ t, matchStep P0 p7 = .ok t) ∧
    (p7.tokens = some [.literal 0] ∧ p7.inputTo p7.p = some [0] ∧ replay [.literal 0] = some [0] ∧
      p7.inputTo 4 = some [0, 0, 0, 0]) ∧
    (candidates P0 p7 = [0] ∧ p7.p + 3 ≤ p7.size ∧ commonPrefix p7 0 p7.p (min 258 (p7.size - p7.p)) = 3) :=
  ⟨p7_inv, p7_loaded, p7_chains, by decide, ⟨_, rfl⟩, by decide, by decide⟩

/-- MatchStepHasTheClosedForm: no candidate reaches length 3, before the end and at it. -/
theorem witness_no_match :
    (let s := { p7 with input := [(0, 0), (1, 0), (2, 0), (3, 1)] }
     ∀ q ∈ candidates P0 s, commonPrefix s q s.p (min 258 (s.size - s.p)) < 3) ∧
    (let s := { p7 with p := 2 }; s.size < s.p + 3) := by decide

/-- ShortInputsIgnoreTheHash: two hashes, and an input at the bound with every byte loaded. -/
theorem witness_short_inputs :
    (let P := { P0 with nMax := 131 }
     let P' := { P with hash := fun _ _ _ => 0 }
     let s := { State.reset with inSize := 131, input := (List.range 131).map fun i => (i, BitVec.ofNat 8 i) }
     P.nMax = P'.nMax ∧ s.inSize ≤ P.nMax ∧ s.inSize ≤ 131 ∧
      (List.range 131).all (fun i => (Memory.read s.beginRun.input i).isSome) = true ∧ Loaded s.beginRun) := by
  have h : (List.range 131).all (fun i => (Memory.read ((List.range 131).map fun i => (i, BitVec.ofNat 8 i)) i).isSome)
      = true := by decide +kernel
  refine ⟨rfl, by decide, by decide, h, ?_⟩
  intro i hi
  exact List.all_eq_true.mp h i (List.mem_range.mpr hi)

/-- StepKeepsTheInvariant, StepKeepsTheReplayInvariant: a step in the middle of a run. -/
theorem witness_step_keeps :
    Inv Config.params emptyRun ∧ ReplayInv emptyRun ∧ ∃ t, step emptyRun = .next t ∧ t.encStage = .flush :=
  ⟨emptyRun_inv, fun _ => ⟨[], [], rfl, rfl, rfl⟩, ⟨_, rfl, rfl⟩⟩

/-- The same with a token and a byte of input, for the invariant of an implementation with room. -/
theorem witness_replay_inv : Inv P0 p7 ∧ ReplayInv p7 :=
  ⟨p7_inv, fun _ => ⟨[.literal 0], [0], by decide, by decide, by decide⟩⟩

/-- BlockBitsAreBounded, InflateInvertsTheBlock: P2's tokens. -/
theorem witness_block :
    (∀ t ∈ [Token.literal 0x41, .backRef 6 1], t.legal = true) ∧
    replay [.literal 0x41, .backRef 6 1] = some (List.replicate 7 0x41) := by decide

/-- EncodePhaseWritesTheBlock: the tokens of P2, for an implementation with room for its seven bytes. -/
theorem witness_encode_phase (h : 7 ≤ Config.params.nMax) :
    (let s := { State.reset with phase := .encoding, ntok := 2, tok := [(0, 0x41), (1, 0x800003)] }
     s.phase = .encoding ∧ s.encStage = .hdr ∧ s.inbox = [] ∧ s.distDue = false ∧ s.tk = 0 ∧ s.acc = 0 ∧ s.nbits = 0 ∧
      s.outLen = 0 ∧ s.flushed = false ∧ s.tokens = some [.literal 0x41, .backRef 6 1] ∧
      covered [.literal 0x41, .backRef 6 1] ≤ Config.params.nMax) :=
  ⟨rfl, rfl, rfl, rfl, rfl, rfl, rfl, rfl, rfl, by decide, h⟩

/-- EncodePhaseWritesTheBlock: the empty TokenStream, for every implementation. -/
theorem witness_encode_phase_empty :
    (let s := { State.reset with phase := .encoding }
     s.phase = .encoding ∧ s.encStage = .hdr ∧ s.inbox = [] ∧ s.distDue = false ∧ s.tk = 0 ∧ s.acc = 0 ∧ s.nbits = 0 ∧
      s.outLen = 0 ∧ s.flushed = false ∧ s.tokens = some [] ∧ covered [] ≤ Config.params.nMax) :=
  ⟨rfl, rfl, rfl, rfl, rfl, rfl, rfl, rfl, rfl, rfl, Nat.zero_le _⟩

/-- EveryRunEndsDone, CompressThenInflateIsIdentity, EmptyInputGivesTwoBytes, RunsOfTheSameInputAgree: the empty input,
after reset and after a run. -/
theorem witness_ready_empty :
    ReadyToStart Config.params State.reset [] ∧ ReadyToStart Config.params finished [] :=
  ⟨⟨.inl rfl, rfl, Nat.zero_le _, rfl, rfl⟩, ⟨.inr rfl, rfl, Nat.zero_le _, rfl, rfl⟩⟩

/-- The same for seven bytes and an implementation with room for them. -/
theorem witness_ready (h : 7 ≤ Config.params.nMax) :
    ReadyToStart Config.params
      { State.reset with
        inSize := 7
        input := [(0, 0x41), (1, 0x41), (2, 0x41), (3, 0x41), (4, 0x41), (5, 0x41), (6, 0x41)] }
      (List.replicate 7 0x41) :=
  ⟨.inl rfl, rfl, h, by decide, rfl⟩

/-- FlushAndEmitRaiseCapacity: `OUT` with its last byte taken, and `TOK` full at its boundary, with a search to make. -/
theorem witness_capacity :
    (0 < (writer 1 1 [1, 2]).nbits ∧
      Config.outCapacity { P0 with nMax := 0 } < (writer 1 1 [1, 2]).outLen + 1) ∧
    (let s := { p7 with ntok := 4 }
     ChainInv s ∧ Loaded s ∧ s.p < s.size ∧ s.size ≤ 4 ∧ Config.tokCapacity { P0 with nMax := 4 } ≤ s.ntok) :=
  ⟨by decide, ⟨p7_inv.chains.head, p7_inv.chains.prev, p7_inv.chains.inserted⟩, p7_loaded, by decide, by decide,
    by decide⟩

/-- ReadOnlyRegisterWritesAreIgnored, in `ERROR` and in a run. -/
theorem witness_read_only_writes :
    [({ State.reset with phase := .error, err := .eSize }, Request.writeErr 0), (p1, .writeStatus 3), (p1, .writeOutSize 0)].all
      (fun r => (r.1.request r.2).due == some (r.2, r.1)) = true := by decide

end Sys2Proof.Tests
end

section
/-! What a step can do, said once: the positions the decoder answers at, the commands of `CTRL`, and the inversion of
`step`. -/

namespace Sys2Proof

/-! The decoder answers an instruction of the position it reads at. -/

theorem withField_position {n : Nat} {bits rest : List Bool} {k : BitVec n → Instr} {i : Instr} {pos : Position}
    (hk : ∀ e, (k e).position = pos) (h : withField n bits k = .ok (i, rest)) : i.position = pos := by
  unfold withField at h
  split at h <;> cases h
  exact hk _

theorem lengthElement_position {sym : Nat} {bits rest : List Bool} {i : Instr}
    (h : lengthElement sym bits = .ok (i, rest)) : i.position = .litLen := by
  unfold lengthElement at h
  split at h
  case h_1 | h_2 | h_3 | h_4 | h_5 | h_6 | h_7 | h_8 | h_29 => cases h; rfl
  case h_30 => cases h
  all_goals exact withField_position (fun _ => rfl) h

theorem distanceElement_position {sym : Nat} {bits rest : List Bool} {i : Instr}
    (h : distanceElement sym bits = .ok (i, rest)) : i.position = .dist := by
  unfold distanceElement at h
  split at h
  case h_1 | h_2 | h_3 | h_4 => cases h; rfl
  case h_31 => cases h
  all_goals exact withField_position (fun _ => rfl) h

theorem decodeHeader_position {bits rest : List Bool} {i : Instr} (h : decodeHeader bits = .ok (i, rest)) :
    i.position = .header := by
  unfold decodeHeader at h
  split at h
  · split at h
    · split at h <;> cases h
      rfl
    · cases h
  · cases h

theorem decodeLitLen_position {bits rest : List Bool} {i : Instr} (h : decodeLitLen bits = .ok (i, rest)) :
    i.position = .litLen := by
  unfold decodeLitLen at h
  split at h
  · cases h
  · dsimp only at h
    split at h
    · cases h; rfl
    · split at h
      · exact lengthElement_position h
      · split at h
        · cases h
        · split at h
          · cases h; rfl
          · split at h
            · exact lengthElement_position h
            · split at h <;> cases h
              rfl

theorem decodeDistance_position {bits rest : List Bool} {i : Instr} (h : decodeDistance bits = .ok (i, rest)) :
    i.position = .dist := by
  unfold decodeDistance at h
  split at h
  · cases h
  · exact distanceElement_position h

theorem decodeTokenWord_position {w : TokenWord} {i : Instr} (h : decodeTokenWord w = .ok i) :
    i.position = .token := by
  unfold decodeTokenWord at h
  split at h
  · cases h; rfl
  · split at h <;> cases h
    rfl

/-- A write of `CTRL` issues one of the two commands or none (R23). -/
theorem decodeCtrl_eq_ok {v : Nat} {i : Instr} (h : decodeCtrl v = .ok i) : i = .reset ∨ i = .start := by
  unfold decodeCtrl decodeCtrlBits at h
  split at h
  · cases h; exact .inl rfl
  · split at h <;> cases h
    exact .inr rfl

end Sys2Proof

namespace Sys2Proof.Machine

/-- The encoder reads a driven element at a position of the stream, so it is no token word and no command. -/
theorem driven_position {s : State} {bits rest : List Bool} {i : Instr}
    (h : decode (encoderPosition s) bits = .ok (i, rest)) : i.position ≠ .ctrl ∧ i.position ≠ .token := by
  unfold encoderPosition at h
  split at h
  · simp [decodeHeader_position h]
  · split at h
    · simp [decodeDistance_position h]
    · simp [decodeLitLen_position h]

/-- Everything a step from `s` that goes on to `t` can have done, from the state `u` that has the transaction taken out
of `inbox` or brought one step nearer. -/
inductive StepEffect (s u t : State) : Prop
  | reset (runs : StepRuns .reset s) (ht : t = u.resetCore)
  | start (runs : StepRuns .start s) (ht : t = startRun Config.params u)
  | element (i : Instr) (pos : i.position ≠ .ctrl) (token : i.position = .token → u.tk < u.ntok)
      (run : exec i u = .next t)
  | nothing (ht : t = u)
  | hostRead (v : Nat) (ht : t = { u with rdata := some v })
  | hostInSize (v : Nat) (due : s.due = some (.writeInSize v, u)) (ht : t = writeInSize Config.params v u)
  | hostIn (i : Nat) (b : Byte) (due : s.due = some (.writeIn i b, u)) (idle : u.phase.running = false)
      (fits : i < Config.params.nMax) (ht : t = { u with input := Memory.write u.input i b })
  | matchStep (phase : u.phase = .matching) (more : u.p < u.size) (run : matchStep Config.params u = .ok t)
  | enterEncode (phase : u.phase = .matching) (all : u.p = u.size) (ht : t = u.enterEncode)
  | flush (phase : u.phase = .encoding) (ht : t = (encFlush Config.params u).state)

/-- What serving a due transaction does. -/
theorem serve_effect {s u t : State} {r : Request} (hdue : s.due = some (r, u)) (h : step s = .next t) :
    StepEffect s u t := by
  have hf := fetch_of_due Config.params s u r hdue
  rcases step_cases s t h with ⟨i, v, hrun, hexec⟩ | hset
  · obtain ⟨rfl, ⟨w, rfl, hd⟩ | ⟨bits, rfl, hd⟩⟩ := serve_run Config.params r u v i (hf ▸ hrun)
    · rcases decodeCtrl_eq_ok hd with rfl | rfl
      · cases hexec; exact .reset ⟨_, hrun⟩ rfl
      · cases hexec; exact .start ⟨_, hrun⟩ rfl
    · obtain ⟨hc, ht⟩ := driven_position hd
      exact .element i hc (fun h => absurd h ht) hexec
  · rcases serve_settled Config.params r u t (hf ▸ hset) with
      rfl | ⟨v, rfl, rfl⟩ | ⟨i, b, rfl, hr, hi, rfl⟩ | ⟨v, rfl⟩
    · exact .nothing rfl
    · exact .hostInSize v hdue rfl
    · exact .hostIn i b hdue hr hi rfl
    · exact .hostRead v rfl

/-- What CORE's own operation does, where no transaction is due. -/
theorem fetchCore_effect {s t : State} (hdue : s.due = none) (h : step s = .next t) : StepEffect s s.tick t := by
  have hf := fetch_of_not_due Config.params s hdue
  rcases step_cases s t h with ⟨i, v, hrun, hexec⟩ | hset
  · obtain ⟨rfl, -, rfl | rfl | ⟨-, hlt, w, -, hd⟩⟩ := fetchCore_run Config.params s.tick v i (hf ▸ hrun)
    · exact .element .hdr nofun nofun hexec
    · exact .element .eob nofun nofun hexec
    · have hp := decodeTokenWord_position hd
      exact .element i (by simp [hp]) (fun _ => hlt) hexec
  · rcases fetchCore_settled Config.params s.tick t (hf ▸ hset) with
      ⟨-, rfl⟩ | ⟨hp, hlt, hm⟩ | ⟨hp, heq, rfl⟩ | ⟨hp, -, rfl⟩
    · exact .nothing rfl
    · exact .matchStep hp hlt hm
    · exact .enterEncode hp heq rfl
    · exact .flush hp rfl

/-- The inversion of a step: up to `inbox` it is one of the effects. -/
theorem step_effect {s t : State} (h : step s = .next t) :
    ∃ box, StepEffect s { s with inbox := box } t := by
  rcases hdue : s.due with _ | ⟨r, u⟩
  · refine ⟨s.tick.inbox, ?_⟩
    rw [← s.tick_eq]
    exact fetchCore_effect hdue h
  · refine ⟨u.inbox, ?_⟩
    rw [← State.due_eq s u r hdue]
    exact serve_effect hdue h

end Sys2Proof.Machine
end

section
/-! The hash chains: `INSERT` keeps them exact (R30, R31) and causal (R32). While a step inserts its positions, `p` has not
moved yet: both invariants are stated for the positions below `n` first, and are those of the model at `n = p`. -/

namespace Sys2Proof.Machine

/-- What one insertion does: nothing in the last two positions, else the new link and the new head (R108). -/
theorem insertAt_eq_ok {P : Config.Params} {pos : Nat} {s t : State} (h : insertAt P pos s = .ok t) :
    (s.size < pos + 3 ∧ t = s) ∨
    (pos + 3 ≤ s.size ∧ t.input = s.input ∧ t.size = s.size ∧ ∃ hh, hash3 P s pos = .ok hh ∧
      t.prev = Memory.write s.prev pos (readHead s hh) ∧ t.head = Memory.write s.head hh.toNat pos) := by
  unfold insertAt at h
  split at h
  · rename_i hin
    split at h
    · simp only [bind_eq_ok, Except.ok.injEq] at h
      obtain ⟨hh, hhash, rfl⟩ := h
      exact .inr ⟨hin, rfl, rfl, hh, hhash, rfl, rfl⟩
    · cases h
  · cases h
    exact .inl ⟨by omega, rfl⟩

/-- What every insertion keeps, an ascending run of insertions keeps; `I s n` speaks of the positions below `n`. -/
theorem insertFrom_induction {P : Config.Params} {I : State → Nat → Prop}
    (one : ∀ s t pos, I s pos → insertAt P pos s = .ok t → I t (pos + 1))
    {n pos : Nat} {s t : State} (hs : I s pos) (h : insertFrom P n pos s = .ok t) : I t (pos + n) := by
  induction n generalizing pos s with
  | zero => cases h; exact hs
  | succ n ih =>
    simp only [insertFrom, bind_eq_ok] at h
    obtain ⟨u, hone, hrest⟩ := h
    have := ih (one s u pos hs hone) hrest
    rwa [Nat.add_assoc, Nat.add_comm 1 n] at this

/-! The exact chains. -/

/-- The bytes `HASH3` reads are those of `IN` (R102). -/
theorem hash3_eq_hashAt {P : Config.Params} {s : State} {q : Nat} {h : BitVec 15} (hh : hash3 P s q = .ok h) :
    hashAt P s q = h := by
  obtain ⟨b0, b1, b2, h0, h1, h2, rfl⟩ := (hash3_eq_ok P s q h).mp hh
  obtain ⟨-, r0⟩ := (readIn_eq_ok s q b0).mp h0
  obtain ⟨-, r1⟩ := (readIn_eq_ok s (q + 1) b1).mp h1
  obtain ⟨-, r2⟩ := (readIn_eq_ok s (q + 2) b2).mp h2
  simp [hashAt, byteAt, r0, r1, r2]

theorem hashAt_congr {P : Config.Params} {s t : State} (hin : t.input = s.input) (q : Nat) :
    hashAt P t q = hashAt P s q := by simp [hashAt, byteAt, hin]

theorem chainBelow_congr {P : Config.Params} {s t : State} (hin : t.input = s.input) (hsize : t.size = s.size)
    (h : BitVec 15) (n : Nat) : chainBelow P t h n = chainBelow P s h n := by
  induction n with
  | zero => rfl
  | succ n ih => simp only [chainBelow, ih, hsize, hashAt_congr hin]

/-- A position that can be inserted heads the chain of its hash, and that chain alone. -/
theorem chainBelow_succ_inserted {P : Config.Params} {s : State} {n : Nat} (hin : n + 3 ≤ s.size) (h : BitVec 15) :
    chainBelow P s h (n + 1) = if h = hashAt P s n then n :: chainBelow P s h n else chainBelow P s h n := by
  simp [chainBelow, hin, eq_comm]

theorem chainBelow_succ_tail {P : Config.Params} {s : State} {n : Nat} (hout : s.size < n + 3) (h : BitVec 15) :
    chainBelow P s h (n + 1) = chainBelow P s h n := by
  simp [chainBelow, Nat.not_le.mpr hout]

/-- ChainsExact with `n` for `p`. -/
structure ChainsExactTo (P : Config.Params) (s : State) (n : Nat) : Prop where
  head : ∀ h : BitVec 15, readHead s h = (chainBelow P s h n).head?
  prev : ∀ q, q < n → q + 3 ≤ s.size → Memory.read s.prev q = some (chainBelow P s (hashAt P s q) q).head?

theorem chainsExact_iff (P : Config.Params) (s : State) : ChainsExact P s ↔ ChainsExactTo P s s.p :=
  ⟨fun h => ⟨h.head, h.prev⟩, fun h => ⟨h.head, h.prev⟩⟩

/-- The exact chains depend on the input and the two tables alone. -/
theorem ChainsExactTo.congr {P : Config.Params} {s t : State} {n : Nat} (h : ChainsExactTo P s n)
    (hin : t.input = s.input) (hsize : t.size = s.size) (hhead : t.head = s.head) (hprev : t.prev = s.prev) :
    ChainsExactTo P t n where
  head g := by rw [chainBelow_congr hin hsize, ← h.head g, readHead, hhead, readHead]
  prev q hq hqin := by
    rw [chainBelow_congr hin hsize, hashAt_congr hin, hprev]
    exact h.prev q hq (hsize ▸ hqin)

/-- The head of every chain after `HEAD[g] <- a` (R108). -/
theorem readHead_of_write {s t : State} {g : BitVec 15} {a : Nat} (ht : t.head = Memory.write s.head g.toNat a)
    (h : BitVec 15) : readHead t h = if h = g then some a else readHead s h := by
  simp [readHead, ht, Memory.read_write, BitVec.toNat_inj]

/-- One insertion extends the exact chains by its position (R108). -/
theorem insertAt_keeps_exact {P : Config.Params} {s t : State} {pos : Nat} (hs : ChainsExactTo P s pos)
    (h : insertAt P pos s = .ok t) : ChainsExactTo P t (pos + 1) := by
  rcases insertAt_eq_ok h with ⟨hout, rfl⟩ | ⟨hin, hinput, hsize, hh, hhash, hprev, hhead⟩
  · refine ⟨fun g => ?_, fun q hq hqin => hs.prev q (by omega) hqin⟩
    rw [chainBelow_succ_tail hout, hs.head g]
  · have hpos := hash3_eq_hashAt hhash
    refine ⟨fun g => ?_, fun q hq hqin => ?_⟩
    · rw [chainBelow_congr hinput hsize, chainBelow_succ_inserted hin, readHead_of_write hhead, hpos]
      split
      · rfl
      · exact hs.head g
    · rw [chainBelow_congr hinput hsize, hashAt_congr hinput, hprev, Memory.read_write]
      split
      · subst q
        rw [hpos, hs.head hh]
      · exact hs.prev q (by omega) (hsize ▸ hqin)

/-- `MATCH_STEP` keeps the exact chains: it inserts every position its token covers (R107, R108). -/
theorem matchStep_keeps_exact {P : Config.Params} {s t : State} (hs : ChainsExact P s)
    (h : matchStep P s = .ok t) : ChainsExact P t := by
  rw [chainsExact_iff] at hs ⊢
  obtain ⟨s1, tok, hsearch, -, ⟨-, s2, hins, rfl⟩ | ⟨-, rfl⟩⟩ := matchStep_eq_ok P s t h
  · have hstart : ChainsExactTo P (appendToken tok s1) s.p := by
      rw [search_rest P s s1 hsearch]
      exact hs.congr rfl rfl rfl rfl
    have hend := insertFrom_induction (fun _ _ _ => insertAt_keeps_exact) hstart hins
    exact hend.congr rfl rfl rfl rfl
  · rw [search_rest P s s1 hsearch]
    exact hs.congr rfl rfl rfl rfl

/-- An accepted `START` empties every chain (R45, R201). -/
theorem beginRun_exact (P : Config.Params) (s : State) : ChainsExact P s.beginRun :=
  ⟨fun _ => rfl, fun _ hq _ => absurd hq (Nat.not_lt_zero _)⟩

/-- Settles O42: the chains are exact at `START`, and every insertion extends them by its position. -/
theorem hashChainsStayExact : Obligations.HashChainsStayExact :=
  ⟨beginRun_exact, fun _ _ _ _ _ hs _ h => matchStep_keeps_exact hs h⟩

/-! The causal chains. -/

/-- ChainInv with `n` for `p`. -/
structure ChainsCausalTo (s : State) (n : Nat) : Prop where
  head : ∀ h q, Memory.read s.head h = some q → q < n ∧ q + 3 ≤ s.size
  prev : ∀ q v, Memory.read s.prev q = some v → q < n ∧ q + 3 ≤ s.size ∧ ∀ r, v = some r → r < q
  inserted : ∀ q, q < n → q + 3 ≤ s.size → (Memory.read s.prev q).isSome

theorem chainInv_iff (s : State) : ChainInv s ↔ ChainsCausalTo s s.p :=
  ⟨fun h => ⟨h.head, h.prev, h.inserted⟩, fun h => ⟨h.head, h.prev, h.inserted⟩⟩

/-- One insertion links its position to a smaller one (R32, R108). -/
theorem insertAt_keeps_causal {P : Config.Params} {s t : State} {pos : Nat} (hs : ChainsCausalTo s pos)
    (h : insertAt P pos s = .ok t) : ChainsCausalTo t (pos + 1) := by
  rcases insertAt_eq_ok h with ⟨hout, rfl⟩ | ⟨hin, -, hsize, hh, -, hprev, hhead⟩
  · refine ⟨fun g q hq => ?_, fun q v hq => ?_, fun q hq hqin => hs.inserted q (by omega) hqin⟩
    · obtain ⟨hlt, hqin⟩ := hs.head g q hq
      exact ⟨by omega, hqin⟩
    · obtain ⟨hlt, hqin⟩ := hs.prev q v hq
      exact ⟨by omega, hqin⟩
  · refine ⟨fun g q hq => ?_, fun q v hq => ?_, fun q hq hqin => ?_⟩
    · rw [hhead, Memory.read_write] at hq
      split at hq
      · cases hq
        exact ⟨by omega, by omega⟩
      · obtain ⟨hlt, hqin⟩ := hs.head g q hq
        exact ⟨by omega, by omega⟩
    · rw [hprev, Memory.read_write] at hq
      split at hq
      · cases hq
        subst q
        exact ⟨by omega, by omega, fun r hr => (hs.head _ r hr).1⟩
      · obtain ⟨hlt, hqin, hlink⟩ := hs.prev q v hq
        exact ⟨by omega, by omega, hlink⟩
    · rw [hprev, Memory.read_write]
      split
      · rfl
      · exact hs.inserted q (by omega) (by omega)

end Sys2Proof.Machine
end

section
/-! The host's transactions, and what a step does to `ERR`, `IN` and `IN_SIZE`. -/

namespace Sys2Proof.Machine

/-! A due transaction. -/

/-- A transaction that is due and settled by the host port alone. -/
theorem step_of_settled {s t : State} {r : Request} {o : Result} (hdue : s.due = some (r, t))
    (hserve : serve Config.params r t = .settled o) : step s = o := by
  rw [step, fetch_of_due _ _ _ _ hdue, hserve]

/-- A due write of `CTRL` that decodes to a command runs it. -/
theorem step_of_command {s t : State} {v : Nat} {i : Instr} (hdue : s.due = some (.writeCtrl v, t))
    (hd : decodeCtrl v = .ok i) : step s = exec i t := by
  rw [step, fetch_of_due _ _ _ _ hdue, serve, hd]

/-- Settles O4: bit 1 is looked at first, then bit 0 (R23). -/
theorem ctrlWriteIssuesCommand : Obligations.CtrlWriteIssuesCommand := by
  intro s t v hdue
  refine ⟨fun h1 => ?_, fun h1 h0 => ?_, fun h1 h0 => ?_⟩
  · exact step_of_command hdue (by simp [decodeCtrl, decodeCtrlBits, h1])
  · exact step_of_command hdue (by simp [decodeCtrl, decodeCtrlBits, h1, h0])
  · exact step_of_settled hdue (by simp [serve, decodeCtrl, decodeCtrlBits, h1, h0])

/-- Settles O56: the host port answers each of the three writes with the state it was given. -/
theorem readOnlyRegisterWritesAreIgnored : Obligations.ReadOnlyRegisterWritesAreIgnored := by
  rintro s t r v hdue (rfl | rfl | rfl) <;> exact step_of_settled hdue rfl

/-- Settles O2: R45's emptied spaces, and the host's own fields (log 22). -/
theorem resetLeavesUnspecifiedSpacesEmpty : Obligations.ResetLeavesUnspecifiedSpacesEmpty :=
  fun s => ⟨s.resetCore, rfl, fun _ => ⟨rfl, rfl, rfl, rfl⟩, rfl, rfl⟩

/-- What a due transaction leaves of CORE: everything. -/
theorem due_fields {s t : State} {r : Request} (h : s.due = some (r, t)) :
    t.phase = s.phase ∧ t.err = s.err ∧ t.inSize = s.inSize ∧ t.outLen = s.outLen ∧ t.out = s.out := by
  rw [State.due_eq s t r h]
  exact ⟨rfl, rfl, rfl, rfl, rfl⟩

/-- Settles O35: the codes are those of R24, and each read is served with the register it names. -/
theorem hostReadsReturnTheRegisters : Obligations.HostReadsReturnTheRegisters := by
  refine ⟨⟨rfl, rfl, rfl, rfl, rfl⟩, fun s t =>
    ⟨fun hdue => ?_, fun hdue => ?_, fun hdue => ?_, fun hdue hidle => ?_, fun hdue hread => ?_,
      fun i b hdue hdone hlt hbyte => ?_⟩⟩
  all_goals
    obtain ⟨hphase, herr, hsize, hlen, hout⟩ := due_fields hdue
    apply step_of_settled hdue
  · rfl
  · simp [serve, State.returns, hphase]
  · simp [serve, State.returns, herr]
  · simp [serve, readInSize, State.returns, hphase, hidle, hsize]
  · rcases hread with h | h <;> simp [serve, readOutSize, State.returns, hphase, h, hlen]
  · simp [serve, readOut, State.returns, hphase, hdone, hlen, hlt, hout, hbyte]

/-! `ERR` (R27). -/

/-- `START` changes `ERR` only where it takes `E_SIZE` from `IDLE` or `DONE` (R182). -/
theorem startRun_err {P : Config.Params} {s : State} (h : (startRun P s).err ≠ s.err) :
    s.phase ≠ .error ∧ (startRun P s).phase = .error ∧ (startRun P s).err ≠ .eNone := by
  rcases startRun_cases P s with ⟨ht, hp | hp, -⟩ | ⟨ht, -, -⟩ | ⟨ht, -⟩
  · simp [ht, hp]
  · simp [ht, hp]
  · exact absurd (by rw [ht]; rfl) h
  · exact absurd (by rw [ht]) h

/-- `ENC_FLUSH` changes `ERR` only where it raises `E_CAPACITY` (R181). -/
theorem encFlush_err {P : Config.Params} {s : State} (h : (encFlush P s).state.err ≠ s.err) :
    (encFlush P s).state = s.raise .eCapacity := by
  rcases encFlush_cases P s with ht | ⟨u, -, ht, -, -, hrest⟩
  · exact ht
  · exact absurd (by rw [ht, hrest]) h

/-- Settles O7, by the effects of a step: a command, an element, the matcher and the flush each raise or keep `ERR`. -/
theorem errWrittenOnErrorEntryClearedByReset : Obligations.ErrWrittenOnErrorEntryClearedByReset := by
  refine ⟨⟨rfl, rfl, rfl, rfl⟩, fun s t hstep hne => ?_⟩
  obtain ⟨box, heff⟩ := step_effect hstep
  cases heff with
  | reset runs ht => exact .inr ⟨runs, by rw [ht]; rfl⟩
  | start runs ht =>
    subst ht
    exact .inl (startRun_err hne)
  | element i pos token run =>
    obtain ⟨hphase, -, ⟨-, herr⟩ | ⟨hp, herr⟩⟩ := exec_encoder_frame i _ t pos run
    · exact absurd herr hne
    · exact .inl ⟨by simp [show s.phase = _ from hphase], hp, herr⟩
  | matchStep phase more run =>
    obtain ⟨-, ⟨-, herr⟩ | ⟨hp, herr⟩, -⟩ := matchStep_frame _ _ t run
    · exact absurd herr hne
    · exact .inl ⟨by simp [show s.phase = _ from phase], hp, by simp [herr]⟩
  | flush phase ht =>
    subst ht
    have hraise := encFlush_err hne
    exact .inl ⟨by simp [show s.phase = _ from phase], by simp [hraise], by simp [hraise]⟩
  | hostInSize v due ht =>
    refine absurd ?_ hne
    rw [ht, writeInSize]
    split
    · rfl
    · split <;> rfl
  | nothing ht | hostRead v ht | hostIn i b due idle fits ht | enterEncode phase all ht =>
    exact absurd (by subst ht; rfl) hne

/-! `IN` and `IN_SIZE` (R51). -/

theorem startRun_input (P : Config.Params) (s : State) :
    (startRun P s).input = s.input ∧ (startRun P s).inSize = s.inSize := by
  rcases startRun_cases P s with ⟨h, -⟩ | ⟨h, -⟩ | ⟨h, -⟩ <;> simp [h]

theorem encFlush_input (P : Config.Params) (s : State) :
    (encFlush P s).state.input = s.input ∧ (encFlush P s).state.inSize = s.inSize := by
  rcases encFlush_cases P s with h | ⟨u, -, h, -, -, hrest⟩
  · simp [h]
  · rw [h, hrest]; exact ⟨rfl, rfl⟩

/-- Settles O37, by the effects of a step: none of CORE's own operations writes `IN` or `IN_SIZE`. -/
theorem inputChangesOnlyByTheHost : Obligations.InputChangesOnlyByTheHost := by
  intro s t hstep hne
  obtain ⟨box, heff⟩ := step_effect hstep
  have kept : ¬ (t.input = s.input ∧ t.inSize = s.inSize) := by
    rintro ⟨hin, hsize⟩
    exact hne.elim (absurd hin) (absurd hsize)
  cases heff with
  | reset runs ht => exact .inl runs
  | start runs ht => exact absurd (ht ▸ startRun_input _ _) kept
  | element i pos token run =>
    obtain ⟨-, hframe, -⟩ := exec_encoder_frame i _ t pos run
    exact absurd (by rw [hframe.rest]; exact ⟨rfl, rfl⟩) kept
  | matchStep phase more run =>
    exact absurd (by rw [(matchStep_frame _ _ t run).1]; exact ⟨rfl, rfl⟩) kept
  | flush phase ht => exact absurd (ht ▸ encFlush_input _ _) kept
  | hostIn i b due idle fits ht => exact .inr ⟨idle, _, _, due, .inl ⟨i, b, rfl⟩⟩
  | hostInSize v due ht =>
    rcases hrun : s.phase.running with _ | _
    · exact .inr ⟨rfl, _, _, due, .inr ⟨v, rfl⟩⟩
    · exact absurd (by simp [ht, writeInSize, hrun]) kept
  | nothing ht | hostRead v ht | enterEncode phase all ht => exact absurd (by rw [ht]; exact ⟨rfl, rfl⟩) kept

end Sys2Proof.Machine
end

section
/-! The encoder's part of the invariant: the bit writer (R130), `OUT` filled exactly up to `out_len` and within its
capacity (R55), and `tk`. `PACK` and `FLUSH` keep it, so every element does. -/

namespace Sys2Proof.Machine

/-! Filled spaces. -/

/-- The space holds a value exactly below `n`, in canonical form. -/
structure FilledTo {α : Type} (m : Memory α) (n : Nat) : Prop where
  canonical : Memory.wf m
  filled : ∀ i, (Memory.read m i).isSome = decide (i < n)

/-- A write at the end of a filled space fills it one further. -/
theorem FilledTo.write {α : Type} {m : Memory α} {n : Nat} (h : FilledTo m n) (v : α) :
    FilledTo (Memory.write m n v) (n + 1) where
  canonical := Memory.wf_write m n v h.canonical
  filled i := by
    rw [Memory.read_write]
    split
    · simp [*]
    · rw [h.filled]
      simp only [decide_eq_decide]
      omega

/-! The bit writer. -/

/-- The registers of the writer inside `PACK`, where more than 7 bits may be pending: no bit of `acc` at or above
`nbits`, and `OUT` filled up to `out_len`. -/
structure Draining (s : State) : Prop where
  clean : s.acc.toNat < 2 ^ s.nbits
  out : FilledTo s.out s.outLen

/-- One byte out leaves the higher bits, eight fewer (R132). -/
theorem emitByte_draining {s : State} (h : Draining s) (hbyte : 8 ≤ s.nbits) : Draining (emitByte s) where
  clean := by
    have hsplit : 2 ^ s.nbits = 2 ^ (s.nbits - 8) * 2 ^ 8 := by rw [← Nat.pow_add, Nat.sub_add_cancel hbyte]
    have hclean := h.clean
    rw [emitByte_acc, emitByte_nbits, BitVec.toNat_ushiftRight, Nat.shiftRight_eq_div_pow]
    exact Nat.div_lt_of_lt_mul (by rwa [Nat.mul_comm, ← hsplit])
  out := h.out.write _

theorem drain_draining {r : Nat} {s : State} (h : Draining s) (hbytes : 8 * r ≤ s.nbits) : Draining (drain r s) := by
  induction r generalizing s with
  | zero => exact h
  | succ r ih =>
    exact ih (emitByte_draining h (by omega)) (by rw [emitByte_nbits]; omega)

/-- A field of `n` bits, put above the pending bits, keeps the bits above it clear (R130, R132). -/
theorem append_clean {acc : BitVec 32} {b v n : Nat} (hacc : acc.toNat < 2 ^ b) (hv : v < 2 ^ n) :
    (acc ||| (BitVec.ofNat 32 v <<< b)).toNat < 2 ^ (b + n) := by
  rw [BitVec.toNat_or]
  refine Nat.or_lt_two_pow (hacc.trans_le (Nat.pow_le_pow_right (by decide) (by omega))) ?_
  calc (BitVec.ofNat 32 v <<< b).toNat ≤ (BitVec.ofNat 32 v).toNat * 2 ^ b := by
        rw [BitVec.toNat_shiftLeft, Nat.shiftLeft_eq]; exact Nat.mod_le _ _
    _ ≤ v * 2 ^ b := Nat.mul_le_mul_right _ (by rw [BitVec.toNat_ofNat]; exact Nat.mod_le _ _)
    _ < 2 ^ n * 2 ^ b := Nat.mul_lt_mul_of_pos_right hv (Nat.two_pow_pos b)
    _ = 2 ^ (b + n) := by rw [← Nat.pow_add, Nat.add_comm]

theorem appendField_draining {v n : Nat} {s : State} (h : Draining s) (hv : v < 2 ^ n) :
    Draining (appendField v n s) :=
  drain_draining ⟨append_clean h.clean hv, h.out⟩ (by dsimp only; omega)

/-! The encoder. -/

/-- The part of the invariant the encoder works on, with `tk` at `k`. -/
structure EncoderInv (P : Config.Params) (k : Nat) (s : State) : Prop where
  writer : BitWriterInv s
  out : FilledTo s.out s.outLen
  capacity : s.outLen ≤ Config.outCapacity P
  tk : s.tk = k

theorem EncoderInv.raise {P : Config.Params} {k : Nat} {s : State} (h : EncoderInv P k s) (e : ErrCode) :
    EncoderInv P k (s.raise e) := ⟨⟨h.writer.pending, h.writer.clean⟩, h.out, h.capacity, h.tk⟩

/-- `enc_stage` and `distDue` are no part of it. -/
theorem EncoderInv.stage {P : Config.Params} {k : Nat} {s : State} (h : EncoderInv P k s) (g : EncStage) :
    EncoderInv P k { s with encStage := g } := ⟨⟨h.writer.pending, h.writer.clean⟩, h.out, h.capacity, h.tk⟩

theorem EncoderInv.distDue {P : Config.Params} {k : Nat} {s : State} (h : EncoderInv P k s) (b : Bool) :
    EncoderInv P k { s with distDue := b } := ⟨⟨h.writer.pending, h.writer.clean⟩, h.out, h.capacity, h.tk⟩

/-- An operation that keeps the encoder's part, wherever it stops. -/
def KeepsEncoder (P : Config.Params) (g : State → Flow) : Prop :=
  ∀ k s, EncoderInv P k s → EncoderInv P k (g s).state

theorem KeepsEncoder.andThen {P : Config.Params} {f g : State → Flow} (hf : KeepsEncoder P f)
    (hg : KeepsEncoder P g) : KeepsEncoder P (fun s => (f s).andThen g) := by
  intro k s h
  have hmid := hf k s h
  show EncoderInv P k ((f s).andThen g).state
  cases hfs : f s with
  | running u => exact hg k u (by rwa [hfs] at hmid)
  | stopped u => rwa [hfs] at hmid

theorem pack_keepsEncoder (P : Config.Params) (v n : Nat) : KeepsEncoder P (pack P v n) := by
  intro k s h
  rcases pack_cases P v n s with ⟨hp, -⟩ | ⟨hp, -⟩ | ⟨hp, -, -, hv, hroom⟩ <;> rw [hp]
  · exact h.raise _
  · exact h.raise _
  · have hd := appendField_draining ⟨h.writer.clean, h.out⟩ hv
    exact ⟨⟨by simp; omega, hd.clean⟩, hd.out, by simpa using hroom, by
      rw [Flow.state_running, appendField_rest]; exact h.tk⟩

theorem packExtra_keepsEncoder (P : Config.Params) (v n : Nat) : KeepsEncoder P (packExtra P v n) := by
  intro k s h
  unfold packExtra
  split
  · exact pack_keepsEncoder P v n k s h
  · exact h

theorem encHdr_keepsEncoder (P : Config.Params) : KeepsEncoder P (encHdr P) :=
  ((pack_keepsEncoder P 1 1).andThen (pack_keepsEncoder P 1 2)).andThen fun _ _ h => h.stage _

theorem encLit_keepsEncoder (P : Config.Params) (b : Byte) : KeepsEncoder P (encLit P b) := by
  intro k s h
  unfold encLit packCode
  split
  · exact pack_keepsEncoder P _ 8 k s h
  · exact pack_keepsEncoder P _ 9 k s h

theorem encLength_keepsEncoder (P : Config.Params) (code extra : Nat) : KeepsEncoder P (encLength P code extra) :=
  ((pack_keepsEncoder P _ _).andThen (packExtra_keepsEncoder P _ _)).andThen fun _ _ h => h.distDue true

theorem encDistance_keepsEncoder (P : Config.Params) (symbol extra : Nat) :
    KeepsEncoder P (encDistance P symbol extra) :=
  ((pack_keepsEncoder P _ 5).andThen (packExtra_keepsEncoder P _ _)).andThen fun _ _ h => h.distDue false

theorem encEob_keepsEncoder (P : Config.Params) : KeepsEncoder P (encEob P) :=
  (pack_keepsEncoder P _ 7).andThen fun _ _ h => h.stage .flush

theorem encMatch_keepsEncoder {P : Config.Params} {k len dist : Nat} {s : State} {f : Flow}
    (h : EncoderInv P k s) (hf : encMatch P len dist s = some f) : EncoderInv P k f.state := by
  unfold encMatch at hf
  split at hf <;> cases hf
  exact (encLength_keepsEncoder P _ _).andThen (encDistance_keepsEncoder P _ _) k s h

/-- The end of a token moves `tk` on, unless the token's element was stopped (R140, R186). -/
theorem andThen_tokenDone_encoder {P : Config.Params} {k : Nat} {f : Flow} (h : EncoderInv P k f.state) :
    ∃ j, j ≤ k + 1 ∧ EncoderInv P j (f.andThen tokenDone).state := by
  cases f with
  | running u =>
    exact ⟨k + 1, Nat.le_refl _, ⟨h.writer.pending, h.writer.clean⟩, h.out, h.capacity, congrArg (· + 1) h.tk⟩
  | stopped u => exact ⟨k, Nat.le_succ k, h⟩

/-- `FLUSH` keeps the encoder's part: it empties the writer (R135). -/
theorem flush_keepsEncoder (P : Config.Params) : KeepsEncoder P (flush P) := by
  intro k s h
  rcases flush_cases P s with ⟨hf, -⟩ | ⟨hf, -, hroom⟩ | ⟨hf, -⟩ <;> rw [hf]
  · exact h.raise _
  · exact ⟨⟨by simp, by simp⟩, h.out.write _, hroom, h.tk⟩
  · exact ⟨⟨h.writer.pending, h.writer.clean⟩, h.out, h.capacity, h.tk⟩

theorem encFlush_keepsEncoder (P : Config.Params) : KeepsEncoder P (encFlush P) :=
  (flush_keepsEncoder P).andThen fun _ _ h => ⟨⟨h.writer.pending, h.writer.clean⟩, h.out, h.capacity, h.tk⟩

/-! The elements. -/

/-- The flow an element or a token runs from `s`, by its row (R141 to R150). -/
inductive ElementFlow (s : State) : Instr → Flow → Prop
  | header : ElementFlow s .hdr (encHdr Config.params s)
  | literal (i : Instr) (b : Byte) (row : i.shape = .literal8 b ∨ i.shape = .literal9 b) :
      ElementFlow s i (encLit Config.params b s)
  | length (i : Instr) (code k extra : Nat) (row : i.shape = .length code k extra) :
      ElementFlow s i (encLength Config.params code extra s)
  | distance (i : Instr) (symbol k extra : Nat) (row : i.shape = .distance symbol k extra) :
      ElementFlow s i (encDistance Config.params symbol extra s)
  | endOfBlock : ElementFlow s .eob (encEob Config.params s)
  | tokenLit (b : Byte) : ElementFlow s (.tokLit b) ((encLit Config.params b s).andThen tokenDone)
  | tokenMatch (l : BitVec 8) (d : BitVec 15) (f : Flow)
      (flow : encMatch Config.params (tokenLength l) (tokenDistance d) s = some f) :
      ElementFlow s (.tokMatch l d) (f.andThen tokenDone)

theorem whenEnabled_flow {s t : State} {i : Instr} {b : Bool} {f : Flow} (hf : ElementFlow s i f)
    (h : whenEnabled b f = .next t) : ∃ f, ElementFlow s i f ∧ t = f.state := by
  obtain ⟨-, rfl⟩ := (whenEnabled_eq_next b f t).mp h
  exact ⟨f, hf, rfl⟩

/-- An element or a token that goes on ends where its flow ends. -/
theorem exec_flow {i : Instr} {s t : State} (hi : i.position ≠ .ctrl) (h : exec i s = .next t) :
    ∃ f, ElementFlow s i f ∧ t = f.state := by
  cases i
  case start => exact absurd rfl hi
  case reset => exact absurd rfl hi
  case hdr => exact whenEnabled_flow ElementFlow.header h
  case eob => exact whenEnabled_flow ElementFlow.endOfBlock h
  case tokLit b => exact whenEnabled_flow (.tokenLit b) h
  case lit8 b =>
    simp only [exec, execLit8] at h
    split at h
    · exact whenEnabled_flow (.literal _ b (.inl rfl)) h
    · cases h
  case lit9 b =>
    simp only [exec, execLit9] at h
    split at h
    · exact whenEnabled_flow (.literal _ b (.inr rfl)) h
    · cases h
  case tokMatch l d =>
    simp only [exec, execTokMatch] at h
    split at h
    · rename_i f hf
      exact whenEnabled_flow (.tokenMatch l d f hf) h
    · cases h
  case len284 e =>
    simp only [exec, execLen284] at h
    split at h
    · exact whenEnabled_flow (.length _ _ _ _ rfl) h
    · cases h
  case len257 | len258 | len259 | len260 | len261 | len262 | len263 | len264 | len265 | len266 |
      len267 | len268 | len269 | len270 | len271 | len272 | len273 | len274 | len275 | len276 |
      len277 | len278 | len279 | len280 | len281 | len282 | len283 | len285 =>
    exact whenEnabled_flow (.length _ _ _ _ rfl) h
  all_goals exact whenEnabled_flow (.distance _ _ _ _ rfl) h

/-- An element keeps the encoder's part of the invariant; only a token moves `tk`, by at most one. -/
theorem exec_keepsEncoder {i : Instr} {k : Nat} {s t : State} (h : EncoderInv Config.params k s)
    (hi : i.position ≠ .ctrl) (hrun : exec i s = .next t) :
    ∃ j, EncoderInv Config.params j t ∧ (j = k ∨ (i.position = .token ∧ j ≤ k + 1)) := by
  obtain ⟨f, hflow, rfl⟩ := exec_flow hi hrun
  cases hflow with
  | header => exact ⟨k, encHdr_keepsEncoder _ k s h, .inl rfl⟩
  | literal _ b => exact ⟨k, encLit_keepsEncoder _ b k s h, .inl rfl⟩
  | length _ code k' extra => exact ⟨k, encLength_keepsEncoder _ code extra k s h, .inl rfl⟩
  | distance _ symbol k' extra => exact ⟨k, encDistance_keepsEncoder _ symbol extra k s h, .inl rfl⟩
  | endOfBlock => exact ⟨k, encEob_keepsEncoder _ k s h, .inl rfl⟩
  | tokenLit b =>
    obtain ⟨j, hj, hinv⟩ := andThen_tokenDone_encoder (encLit_keepsEncoder _ b k s h)
    exact ⟨j, hinv, .inr ⟨rfl, hj⟩⟩
  | tokenMatch l d f hf =>
    obtain ⟨j, hj, hinv⟩ := andThen_tokenDone_encoder (encMatch_keepsEncoder h hf)
    exact ⟨j, hinv, .inr ⟨rfl, hj⟩⟩

end Sys2Proof.Machine
end

section
/-! What the matcher finds: the token of a step is legal (R36), covers bytes of the input only, and copies the bytes that
stand at `p` (R104 to R107, R114). -/

namespace Sys2Proof.Machine

/-- `IN` holds the same byte at `a + i` and at `b + i`, for every `i` below `n`, all of it readable (R105). -/
def SameBytes (s : State) (a b n : Nat) : Prop :=
  ∀ i, i < n → ∃ x, readIn s (a + i) = .ok x ∧ readIn s (b + i) = .ok x

/-- `CMPLEN` counts bytes that agree, at most `fuel` further ones (R105). -/
theorem cmpLenFrom_same {s : State} {m p fuel k r : Nat} (hk : SameBytes s m p k)
    (h : cmpLenFrom s m p fuel k = .ok r) : r ≤ k + fuel ∧ SameBytes s m p r := by
  induction fuel generalizing k with
  | zero => cases h; exact ⟨Nat.le_refl _, hk⟩
  | succ fuel ih =>
    simp only [cmpLenFrom, bind_eq_ok] at h
    obtain ⟨x, hx, y, hy, h⟩ := h
    split at h
    · subst y
      have hk' : SameBytes s m p (k + 1) := fun i hi => by
        rcases Nat.lt_succ_iff_lt_or_eq.mp hi with hlt | rfl
        · exact hk i hlt
        · exact ⟨x, hx, hy⟩
      obtain ⟨hr, hsame⟩ := ih hk' h
      exact ⟨by omega, hsame⟩
    · cases h
      exact ⟨by omega, hk⟩

theorem cmpLen_same {s : State} {m p cap r : Nat} (h : cmpLen s m p cap = .ok r) :
    r ≤ cap ∧ SameBytes s m p r := by
  simpa using cmpLenFrom_same (fun _ hi => absurd hi (Nat.not_lt_zero _)) h

/-- `dist` back from `p` stands, in the window, a copy of the `len` bytes at `p` (R104, R105). -/
structure CopyAt (s : State) (p cap len dist : Nat) : Prop where
  fits : len ≤ cap
  pos : 1 ≤ dist
  window : dist ≤ 32768
  back : dist ≤ p
  same : SameBytes s (p - dist) p len

/-- The best match so far: none, or a copy (R106). -/
def Walk.Sound (s : State) (p cap : Nat) (w : Walk) : Prop :=
  w.bestLen = 0 ∨ CopyAt s p cap w.bestLen w.bestDist

/-- The next candidate replaces the best match by a copy or keeps it (R104 to R106). -/
theorem examine_sound {s : State} {p cap m : Nat} {w v : Walk} (hw : w.Sound s p cap)
    (h : examine s p cap m w = .ok v) : v.Sound s p cap := by
  unfold examine at h
  dsimp only at h
  split at h
  · cases h; exact hw
  · rename_i hd
    simp only [bind_eq_ok, Except.ok.injEq] at h
    obtain ⟨k, hcmp, rfl⟩ := h
    obtain ⟨hcap, hsame⟩ := cmpLen_same hcmp
    have hm : p - ((p : Int) - m).toNat = m := by omega
    unfold Walk.best
    split
    · exact .inr ⟨hcap, by dsimp only; omega, by dsimp only; omega, by dsimp only; omega, by simpa only [hm] using hsame⟩
    · exact hw

theorem walk_sound {P : Config.Params} {s : State} {p cap fuel : Nat} {w v : Walk} (hw : w.Sound s p cap)
    (h : walk P s p cap fuel w = .ok v) : v.Sound s p cap := by
  induction fuel generalizing w with
  | zero => cases h; exact hw
  | succ fuel ih =>
    unfold walk at h
    split at h
    · cases h; exact hw
    · simp only [bind_eq_ok] at h
      obtain ⟨u, hex, next, -, h⟩ := h
      have hu : u.Sound s p cap := examine_sound hw hex
      exact ih (w := { u with m := next }) hu h

/-- What `SEARCH` leaves in `best_len` and `best_dist`: nothing, or a copy that ends within the input (R103 to R106). -/
theorem search_sound {P : Config.Params} {s t : State} (h : search P s = .ok t) :
    t.scratch.bestLen.toNat = 0 ∨
      CopyAt s s.p (searchCap s) t.scratch.bestLen.toNat t.scratch.bestDist.toNat := by
  unfold search at h
  split at h
  · simp only [bind_eq_ok, Except.ok.injEq] at h
    obtain ⟨hash, -, w, hwalk, rfl⟩ := h
    rcases walk_sound (.inl rfl) hwalk with h0 | hcopy
    · exact .inl (by simp [h0])
    · have hlen : w.bestLen % 2 ^ 9 = w.bestLen := by
        have hcap : searchCap s ≤ 258 := Nat.min_le_left _ _
        have := hcopy.fits
        omega
      have hdist : w.bestDist % 2 ^ 16 = w.bestDist := by
        have := hcopy.window
        omega
      right
      simpa only [BitVec.toNat_ofNat, hlen, hdist] using hcopy
  · cases h
    exact .inl rfl

/-- The token fits the input at `p`: the byte there, or a legal copy within the input (R107, R114). -/
def TokenFits (s : State) : Token → Prop
  | .literal b => readIn s s.p = .ok b
  | .backRef len dist => 3 ≤ len ∧ len ≤ 258 ∧ CopyAt s s.p (s.size - s.p) len dist

theorem TokenFits.legal {s : State} {t : Token} (h : TokenFits s t) : t.legal = true := by
  cases t with
  | literal b => rfl
  | backRef len dist =>
    obtain ⟨hmin, hmax, hcopy⟩ := h
    have hpos := hcopy.pos
    have hwin := hcopy.window
    simp [Token.legal, hmin, hmax, hpos, hwin]

/-- A token that fits covers at least one byte, and bytes of the input only (R107, R116). -/
theorem TokenFits.covers {s : State} {t : Token} (h : TokenFits s t) :
    0 < covers t ∧ s.p + Machine.covers t ≤ s.size := by
  cases t with
  | literal b =>
    obtain ⟨hlt, -⟩ := (readIn_eq_ok s s.p b).mp h
    exact ⟨Nat.one_pos, hlt⟩
  | backRef len dist =>
    obtain ⟨hmin, -, hcopy⟩ := h
    have hlen := hcopy.fits
    simp only [Machine.covers]
    omega

/-- The token a step emits fits the input (R107). -/
theorem chooseToken_fits {P : Config.Params} {s s1 : State} {t : Token} (hsearch : search P s = .ok s1)
    (h : chooseToken s1 = .ok t) : TokenFits s t := by
  have hrest := search_rest P s s1 hsearch
  unfold chooseToken at h
  split at h
  · rename_i hmin
    cases h
    have hmin : 3 ≤ s1.scratch.bestLen.toNat := hmin
    rcases search_sound hsearch with h0 | hcopy
    · omega
    · have hlen := hcopy.fits
      have hmax : searchCap s ≤ 258 := Nat.min_le_left _ _
      have hsize : searchCap s ≤ s.size - s.p := Nat.min_le_right _ _
      exact ⟨hmin, by omega, by omega, hcopy.pos, hcopy.window, hcopy.back, hcopy.same⟩
  · simp only [bind_eq_ok, Except.ok.injEq] at h
    obtain ⟨b, hread, rfl⟩ := h
    rw [hrest] at hread
    exact hread

/-- What a `MATCH_STEP` that emits has done: it appended a token that fits and inserted the positions it covers. -/
structure Emits (P : Config.Params) (s t : State) (tok : Token) : Prop where
  fits : TokenFits s tok
  inserted : ∃ s1 s2, s1 = { s with scratch := s1.scratch } ∧
    insertFrom P (covers tok) s.p (appendToken tok s1) = .ok s2 ∧ t = { s2 with p := s.p + covers tok }
  rest : t = { s with
    scratch := t.scratch, tok := Memory.write s.tok s.ntok tok.word, ntok := s.ntok + 1, prev := t.prev, head := t.head
    p := s.p + covers tok }

/-- A `MATCH_STEP` that goes on emits a token, or finds `TOK` full and raises (R101, R181). -/
theorem matchStep_emits {P : Config.Params} {s t : State} (h : matchStep P s = .ok t) :
    (∃ tok, Emits P s t tok) ∨
      ∃ sc, t = { s with scratch := sc, err := .eCapacity, phase := .error } := by
  obtain ⟨s1, tok, hsearch, hchoose, ⟨-, s2, hins, rfl⟩ | ⟨-, rfl⟩⟩ := matchStep_eq_ok P s t h
  · have hs1 := search_rest P s s1 hsearch
    refine .inl ⟨tok, chooseToken_fits hsearch hchoose, ⟨s1, s2, hs1, hins, rfl⟩, ?_⟩
    rw [insertFrom_rest P _ _ _ _ hins, hs1]
    rfl
  · refine .inr ⟨s1.scratch, ?_⟩
    rw [search_rest P s s1 hsearch]
    rfl

end Sys2Proof.Machine
end

section
/-! The machine's invariant: it holds in the reset state, and every effect of a step keeps it. -/

namespace Sys2Proof.Machine

section
variable {P : Config.Params} {s t : State}

/-- The encoder's part of the invariant. -/
theorem Inv.encoder (h : Inv P s) : EncoderInv P s.tk s where
  writer := h.writer
  out := by
    obtain ⟨-, -, -, -, hout⟩ := h.spaces.canonical
    exact ⟨hout, h.spaces.outFilled⟩
  capacity := h.spaces.outCapacity
  tk := rfl

/-- The fields of the invariant that only the host and the matcher write. -/
structure KeepsMatcher (s t : State) : Prop where
  inSize : t.inSize = s.inSize
  size : t.size = s.size
  p : t.p = s.p
  ntok : t.ntok = s.ntok
  head : t.head = s.head
  prev : t.prev = s.prev
  input : t.input = s.input
  tok : t.tok = s.tok

theorem EncFrame.keepsMatcher (h : EncFrame s t) : KeepsMatcher s t := by
  rw [h.rest]
  constructor <;> rfl

/-- What the controller and the encoder have to keep, where they leave the matcher's fields. -/
theorem Inv.of_keepsMatcher (h : Inv P s) (same : KeepsMatcher s t) {k : Nat} (enc : EncoderInv P k t)
    (tk : k ≤ s.ntok) (err : t.err = .eNone ↔ t.phase ≠ .error)
    (running : t.phase.running = true → t.flushed = false) (covering : t.phase = .encoding → s.p = s.size) :
    Inv P t where
  writer := enc.writer
  spaces := by
    obtain ⟨hinput, hhead, hprev, htok, -⟩ := h.spaces.canonical
    exact {
      canonical := ⟨same.input ▸ hinput, same.head ▸ hhead, same.prev ▸ hprev, same.tok ▸ htok, enc.out.canonical⟩
      input := same.input ▸ h.spaces.input
      head := same.head ▸ h.spaces.head
      tokFilled := same.ntok ▸ same.tok ▸ h.spaces.tokFilled
      tokLegal := same.tok ▸ h.spaces.tokLegal
      outFilled := enc.out.filled
      outCapacity := enc.capacity }
  chains := {
    head := same.head ▸ same.p ▸ same.size ▸ h.chains.head
    prev := same.prev ▸ same.p ▸ same.size ▸ h.chains.prev
    inserted := same.prev ▸ same.p ▸ same.size ▸ h.chains.inserted }
  control := {
    cursor := same.p ▸ same.size ▸ h.control.cursor
    size := same.size ▸ h.control.size
    tokens := same.ntok ▸ same.p ▸ h.control.tokens
    encoded := by rw [enc.tk, same.ntok]; exact tk
    inSize := same.inSize ▸ h.control.inSize
    err := err
    running := running
    covering := fun hp => by rw [same.p, same.size]; exact covering hp }

/-! The host. -/

/-- What is the host's plays no part in the invariant. -/
theorem Inv.host (h : Inv P s) (box : List Pending) (v : Option Nat) : Inv P { s with inbox := box, rdata := v } :=
  h.of_keepsMatcher ⟨rfl, rfl, rfl, rfl, rfl, rfl, rfl, rfl⟩
    ⟨⟨h.writer.pending, h.writer.clean⟩, h.encoder.out, h.encoder.capacity, rfl⟩ h.control.encoded
    h.control.err h.control.running h.control.covering

/-- A write of `IN_SIZE` leaves a value of the register's width (R25; log 10). -/
theorem writeInSize_cases (P : Config.Params) (v : Nat) (s : State) :
    ∃ n f, writeInSize P v s = { s with inSize := n, free := f } ∧ (n = s.inSize ∨ n < 2 ^ Config.posW P) := by
  unfold writeInSize
  split
  · exact ⟨s.inSize, s.free, rfl, .inl rfl⟩
  · split
    · rename_i hv
      exact ⟨v, s.free, rfl, .inr hv⟩
    · exact ⟨_, _, rfl, .inr (Nat.mod_lt _ (Nat.two_pow_pos _))⟩

theorem writeInSize_keeps_inv (h : Inv P s) (v : Nat) : Inv P (writeInSize P v s) := by
  obtain ⟨n, f, ht, hn⟩ := writeInSize_cases P v s
  have hbound : n < 2 ^ Config.posW P := hn.elim (fun e => e ▸ h.control.inSize) id
  rw [ht]
  exact ⟨⟨h.writer.pending, h.writer.clean⟩, ⟨h.spaces.canonical, h.spaces.input, h.spaces.head, h.spaces.tokFilled,
    h.spaces.tokLegal, h.spaces.outFilled, h.spaces.outCapacity⟩, ⟨h.chains.head, h.chains.prev, h.chains.inserted⟩,
    ⟨h.control.cursor, h.control.size, h.control.tokens, h.control.encoded, hbound, h.control.err, h.control.running,
      h.control.covering⟩⟩

theorem writeIn_keeps_inv (h : Inv P s) {i : Nat} (hi : i < P.nMax) (b : Byte) :
    Inv P { s with input := Memory.write s.input i b } where
  writer := ⟨h.writer.pending, h.writer.clean⟩
  spaces := by
    obtain ⟨hinput, hrest⟩ := h.spaces.canonical
    refine ⟨⟨Memory.wf_write _ _ _ hinput, hrest⟩, fun j c hj => ?_, h.spaces.head, h.spaces.tokFilled,
      h.spaces.tokLegal, h.spaces.outFilled, h.spaces.outCapacity⟩
    rw [Memory.read_write] at hj
    split at hj
    · subst j; exact hi
    · exact h.spaces.input j c hj
  chains := ⟨h.chains.head, h.chains.prev, h.chains.inserted⟩
  control := ⟨h.control.cursor, h.control.size, h.control.tokens, h.control.encoded, h.control.inSize, h.control.err,
    h.control.running, h.control.covering⟩

/-! The commands of `CTRL`. -/

/-- The bit writer with nothing pending. -/
theorem BitWriterInv.of_empty (hacc : s.acc = 0) (hnbits : s.nbits = 0) : BitWriterInv s :=
  ⟨by simp [hnbits], by simp [hacc, hnbits]⟩

/-- The reset state, whatever the registers hold that R45 leaves unspecified. -/
theorem reset_inv (P : Config.Params) (sc : Scratch) (f : Nat) (box : List Pending) (v : Option Nat) :
    Inv P { State.reset with scratch := sc, free := f, inbox := box, rdata := v } where
  writer := .of_empty rfl rfl
  spaces := ⟨State.reset_memories_wf, nofun, nofun, fun _ => rfl, nofun, fun _ => rfl, Nat.zero_le _⟩
  chains := ⟨nofun, nofun, fun q hq => absurd hq (Nat.not_lt_zero q)⟩
  control := ⟨Nat.le_refl _, Nat.zero_le _, Nat.le_refl _, Nat.le_refl _, Nat.two_pow_pos _,
    ⟨fun _ => nofun, fun _ => rfl⟩, nofun, nofun⟩

theorem beginRun_keeps_inv (h : Inv P s) (hidle : s.phase = .idle ∨ s.phase = .done) (hfits : s.inSize ≤ P.nMax) :
    Inv P s.beginRun where
  writer := .of_empty rfl rfl
  spaces := by
    obtain ⟨hinput, -⟩ := h.spaces.canonical
    exact ⟨⟨hinput, rfl, rfl, rfl, rfl⟩, h.spaces.input, nofun, fun _ => rfl, nofun, fun _ => rfl, Nat.zero_le _⟩
  chains := ⟨nofun, nofun, fun q hq => absurd hq (Nat.not_lt_zero q)⟩
  control := by
    have herr : s.err = .eNone := h.control.err.mpr (by rcases hidle with hp | hp <;> simp [hp])
    exact ⟨Nat.zero_le _, hfits, Nat.le_refl _, Nat.le_refl _, h.control.inSize, by simp [herr], fun _ => rfl, nofun⟩

/-- A fault leaves everything but `ERR` and `PHASE` (R186). -/
theorem raise_keeps_inv (h : Inv P s) {e : ErrCode} (he : e ≠ .eNone) : Inv P (s.raise e) :=
  h.of_keepsMatcher ⟨rfl, rfl, rfl, rfl, rfl, rfl, rfl, rfl⟩ (h.encoder.raise e) h.control.encoded (by simp [he])
    nofun nofun

theorem startRun_keeps_inv (h : Inv P s) : Inv P (startRun P s) := by
  rcases startRun_cases P s with ⟨ht, -⟩ | ⟨ht, hidle, hfits⟩ | ⟨ht, -⟩ <;> rw [ht]
  · exact raise_keeps_inv h (by decide)
  · exact beginRun_keeps_inv h hidle hfits
  · exact h

/-! The encoder and the controller. -/

theorem exec_keeps_inv {i : Instr} (h : Inv Config.params s) (hi : i.position ≠ .ctrl)
    (htoken : i.position = .token → s.tk < s.ntok) (hrun : exec i s = .next t) : Inv Config.params t := by
  obtain ⟨hphase, hframe, hend⟩ := exec_encoder_frame i s t hi hrun
  obtain ⟨k, henc, hk⟩ := exec_keepsEncoder h.encoder hi hrun
  refine h.of_keepsMatcher hframe.keepsMatcher henc ?_ ?_ (fun _ => ?_) (fun _ => h.control.covering hphase)
  · rcases hk with rfl | ⟨ht, hk⟩
    · exact h.control.encoded
    · exact hk.trans (htoken ht)
  · rcases hend with ⟨hp, he⟩ | ⟨hp, he⟩
    · rw [hp, he]; exact h.control.err
    · simp [hp, he]
  · have hflushed := h.control.running (by rw [hphase]; rfl)
    rw [hframe.rest]
    exact hflushed

theorem enterEncode_keeps_inv (h : Inv P s) (hphase : s.phase = .matching) (hall : s.p = s.size) :
    Inv P s.enterEncode := by
  have herr : s.err = .eNone := h.control.err.mpr (by simp [hphase])
  have hflushed : s.flushed = false := h.control.running (by rw [hphase]; rfl)
  exact h.of_keepsMatcher (k := 0) ⟨rfl, rfl, rfl, rfl, rfl, rfl, rfl, rfl⟩
    ⟨⟨h.writer.pending, h.writer.clean⟩, h.encoder.out, h.encoder.capacity, rfl⟩ (Nat.zero_le _) (by simp [herr])
    (fun _ => hflushed) (fun _ => hall)

theorem encFlush_keeps_inv (h : Inv P s) (hphase : s.phase = .encoding) : Inv P (encFlush P s).state := by
  have henc := encFlush_keepsEncoder P s.tk s h.encoder
  rcases encFlush_cases P s with ht | ⟨u, -, ht, -, -, hrest⟩
  · rw [ht]
    exact raise_keeps_inv h (by decide)
  · have herr : s.err = .eNone := h.control.err.mpr (by simp [hphase])
    rw [ht] at henc ⊢
    exact h.of_keepsMatcher (by rw [hrest]; constructor <;> rfl) henc h.control.encoded (by rw [hrest]; simp [herr]) nofun
      nofun

/-! The matcher. -/

/-- The hash tables while positions are inserted, those below `n` being there: causal, canonical, `HEAD` within its
range. -/
structure TablesTo (s : State) (n : Nat) : Prop where
  causal : ChainsCausalTo s n
  headCanonical : Memory.wf s.head
  prevCanonical : Memory.wf s.prev
  headRange : ∀ h q, Memory.read s.head h = some q → h < 32768

theorem insertAt_keeps_tables {pos : Nat} (hs : TablesTo s pos) (h : insertAt P pos s = .ok t) :
    TablesTo t (pos + 1) := by
  have hcausal := insertAt_keeps_causal hs.causal h
  rcases insertAt_eq_ok h with ⟨-, rfl⟩ | ⟨-, -, -, hh, -, hprev, hhead⟩
  · exact ⟨hcausal, hs.headCanonical, hs.prevCanonical, hs.headRange⟩
  · refine ⟨hcausal, ?_, ?_, fun g q hq => ?_⟩
    · rw [hhead]; exact Memory.wf_write _ _ _ hs.headCanonical
    · rw [hprev]; exact Memory.wf_write _ _ _ hs.prevCanonical
    · rw [hhead, Memory.read_write] at hq
      split at hq
      · subst g; exact hh.isLt
      · exact hs.headRange g q hq

/-- The tables after a step that emitted: every position its token covers is inserted (R108). -/
theorem Emits.tables {tok : Token} (h : Inv P s) (he : Emits P s t tok) : TablesTo t (s.p + covers tok) := by
  obtain ⟨s1, s2, hs1, hins, ht⟩ := he.inserted
  obtain ⟨-, hhead, hprev, -⟩ := h.spaces.canonical
  have hstart : TablesTo (appendToken tok s1) s.p := by
    rw [hs1]
    exact ⟨⟨h.chains.head, h.chains.prev, h.chains.inserted⟩, hhead, hprev, h.spaces.head⟩
  have hend := insertFrom_induction (fun _ _ _ => insertAt_keeps_tables) hstart hins
  rw [ht]
  exact ⟨⟨hend.causal.head, hend.causal.prev, hend.causal.inserted⟩, hend.headCanonical, hend.prevCanonical,
    hend.headRange⟩

theorem Emits.keeps_inv {tok : Token} (h : Inv P s) (hphase : s.phase = .matching) (he : Emits P s t tok) :
    Inv P t := by
  have htables := he.tables h
  obtain ⟨hpos, hend⟩ := he.fits.covers
  obtain ⟨hinput, -, -, htok, hout⟩ := h.spaces.canonical
  have htokens : FilledTo (Memory.write s.tok s.ntok tok.word) (s.ntok + 1) :=
    FilledTo.write ⟨htok, h.spaces.tokFilled⟩ _
  rw [he.rest] at htables ⊢
  exact {
    writer := ⟨h.writer.pending, h.writer.clean⟩
    spaces := {
      canonical := ⟨hinput, htables.headCanonical, htables.prevCanonical, htokens.canonical, hout⟩
      input := h.spaces.input
      head := htables.headRange
      tokFilled := htokens.filled
      tokLegal := fun i w hw => by
        rw [Memory.read_write] at hw
        split at hw
        · cases hw
          exact ⟨tok, he.fits.legal, rfl⟩
        · exact h.spaces.tokLegal i w hw
      outFilled := h.spaces.outFilled
      outCapacity := h.spaces.outCapacity }
    chains := (chainInv_iff _).mpr htables.causal
    control := {
      cursor := hend
      size := h.control.size
      tokens := by
        have := h.control.tokens
        show s.ntok + 1 ≤ s.p + covers tok
        omega
      encoded := h.control.encoded.trans (Nat.le_succ _)
      inSize := h.control.inSize
      err := h.control.err
      running := h.control.running
      covering := fun hp => by
        have : s.phase = .encoding := hp
        rw [hphase] at this
        cases this } }

theorem matchStep_keeps_inv (h : Inv P s) (hphase : s.phase = .matching) (hrun : matchStep P s = .ok t) :
    Inv P t := by
  rcases matchStep_emits hrun with ⟨tok, he⟩ | ⟨sc, rfl⟩
  · exact he.keeps_inv h hphase
  · exact h.of_keepsMatcher ⟨rfl, rfl, rfl, rfl, rfl, rfl, rfl, rfl⟩
      ⟨⟨h.writer.pending, h.writer.clean⟩, h.encoder.out, h.encoder.capacity, rfl⟩ h.control.encoded (by simp) nofun nofun

end

/-! The obligations. -/

/-- Settles O46: the reset state is one of those, with the working registers of log 5. -/
theorem resetMeetsTheInvariant : Obligations.ResetMeetsTheInvariant :=
  reset_inv Config.params State.reset.scratch State.reset.free State.reset.inbox State.reset.rdata

/-- Every effect of a step keeps the invariant. -/
theorem StepEffect.keeps_inv {s u t : State} (h : Inv Config.params u) (heff : StepEffect s u t) :
    Inv Config.params t := by
  cases heff with
  | reset runs ht => rw [ht]; exact reset_inv _ _ _ _ _
  | start runs ht => rw [ht]; exact startRun_keeps_inv h
  | element i pos token run => exact exec_keeps_inv h pos token run
  | nothing ht => rw [ht]; exact h
  | hostRead v ht => rw [ht]; exact h.host u.inbox (some v)
  | hostInSize v due ht => rw [ht]; exact writeInSize_keeps_inv h v
  | hostIn i b due idle fits ht => rw [ht]; exact writeIn_keeps_inv h fits b
  | matchStep phase more run => exact matchStep_keeps_inv h phase run
  | enterEncode phase all ht => rw [ht]; exact enterEncode_keeps_inv h phase all
  | flush phase ht => rw [ht]; exact encFlush_keeps_inv h phase

/-- Settles O47: the invariant does not look at `inbox`, and each effect of a step keeps it. -/
theorem stepKeepsTheInvariant : Obligations.StepKeepsTheInvariant := by
  intro s t h hstep
  obtain ⟨box, heff⟩ := step_effect hstep
  exact heff.keeps_inv (h.host box s.rdata)

end Sys2Proof.Machine
end

section
/-! The replay invariant (R37): a `MATCH_STEP` appends a token that replays the bytes it covers; no other effect of a step
touches the tokens, the input or `p` of a run. -/

namespace Sys2Proof.Machine

section
variable {P : Config.Params} {s t : State}

/-! Tokens and their words. -/

/-- The fields of a match token's word (R85). -/
theorem matchWord_fields (d : BitVec 15) (l : BitVec 8) :
    (1#1 ++ d ++ l).getLsbD 23 = true ∧ (1#1 ++ d ++ l).extractLsb' 0 8 = l ∧
      (1#1 ++ d ++ l).extractLsb' 8 15 = d := by
  refine ⟨?_, BitVec.extractLsb'_append_eq_right, ?_⟩
  · rw [BitVec.getLsbD_append, BitVec.getLsbD_append]
    rfl
  · rw [BitVec.extractLsb'_append_eq_of_le (by decide)]
    exact BitVec.extractLsb'_append_eq_right

/-- The fields of a literal's word (R85). -/
theorem literalWord_fields (b : Byte) :
    (0#16 ++ b).getLsbD 23 = false ∧ (0#16 ++ b).extractLsb' 0 8 = b ∧ (0#16 ++ b).extractLsb' 8 15 = 0#15 := by
  refine ⟨?_, BitVec.extractLsb'_append_eq_right, ?_⟩
  · rw [BitVec.getLsbD_append]
    rfl
  · rw [BitVec.extractLsb'_append_eq_of_le (by decide)]
    rfl

/-- The word of a legal token is read back as that token (R85). -/
theorem tokenOfWord_word {tok : Token} (h : tok.legal = true) : tokenOfWord tok.word = some tok := by
  cases tok with
  | literal b =>
    obtain ⟨htag, hbyte, hzero⟩ := literalWord_fields b
    simp only [tokenOfWord, decodeTokenWord, Token.word, Instr.token, htag, hbyte, hzero, Bool.false_eq_true, if_false,
      if_true]
  | backRef len dist =>
    obtain ⟨htag, hlen, hdist⟩ := matchWord_fields (BitVec.ofNat 15 (dist - 1)) (BitVec.ofNat 8 (len - 3))
    simp only [Token.legal, decide_eq_true_eq] at h
    simp only [tokenOfWord, decodeTokenWord, Token.word, Instr.token, htag, if_true, hlen, hdist, BitVec.toNat_ofNat,
      Option.some.injEq, Token.backRef.injEq]
    omega

theorem tokensTo_congr {n : Nat} (h : ∀ i, i < n → Memory.read t.tok i = Memory.read s.tok i) :
    t.tokensTo n = s.tokensTo n := by
  induction n with
  | zero => rfl
  | succ n ih =>
    simp only [State.tokensTo]
    rw [ih fun i hi => h i (by omega), h n (by omega)]

/-- The token a step emits comes last in the TokenStream. -/
theorem Emits.tokens {tok : Token} {ts : List Token} (he : Emits P s t tok) (hts : s.tokens = some ts) :
    t.tokens = some (ts ++ [tok]) := by
  have hkept : t.tokensTo s.ntok = some ts := (tokensTo_congr fun i hi => by
    rw [he.rest]
    exact Memory.read_write_ne _ _ _ _ (by omega)).trans hts
  have hlast : Memory.read t.tok s.ntok = some tok.word := by
    rw [he.rest]
    exact Memory.read_write_self _ _ _
  have hntok : t.ntok = s.ntok + 1 := by rw [he.rest]
  simp only [State.tokens, hntok, State.tokensTo, hkept, hlast, tokenOfWord_word he.fits.legal, Option.map_some]

/-! The input and its replay. -/

theorem inputTo_congr (hin : t.input = s.input) (n : Nat) : t.inputTo n = s.inputTo n := by
  induction n with
  | zero => rfl
  | succ n ih => simp only [State.inputTo, ih, hin]

/-- One more byte of the input. -/
theorem inputTo_succ {n : Nat} {bs : List Byte} {b : Byte} (hbs : s.inputTo n = some bs)
    (hb : Memory.read s.input n = some b) : s.inputTo (n + 1) = some (bs ++ [b]) := by
  simp [State.inputTo, hbs, hb]

/-- The bytes of `IN[0 .. n)` are those the space holds. -/
theorem inputTo_spec {n : Nat} {bs : List Byte} (hbs : s.inputTo n = some bs) :
    bs.length = n ∧ ∀ i, i < n → bs[i]? = Memory.read s.input i := by
  induction n generalizing bs with
  | zero => cases hbs; exact ⟨rfl, fun _ hi => absurd hi (Nat.not_lt_zero _)⟩
  | succ n ih =>
    simp only [State.inputTo] at hbs
    split at hbs
    · rename_i cs b hcs hb
      cases hbs
      obtain ⟨hlen, hget⟩ := ih hcs
      refine ⟨by simp [hlen], fun i hi => ?_⟩
      rcases Nat.lt_succ_iff_lt_or_eq.mp hi with hlt | rfl
      · rw [List.getElem?_append_left (by omega), hget i hlt]
      · rw [← hlen, List.getElem?_concat_length, hlen, hb]
    · cases hbs

/-- Copying `len` bytes from `dist` back extends `IN[0 .. p)` by the bytes at `p`, where those are the same (R37). -/
theorem copyBack_inputTo {p len dist : Nat} {bs : List Byte} (hpos : 1 ≤ dist) (hback : dist ≤ p)
    (hsame : SameBytes s (p - dist) p len) (hbs : s.inputTo p = some bs) :
    ∃ bs', copyBack bs len dist = some bs' ∧ s.inputTo (p + len) = some bs' := by
  induction len generalizing p bs with
  | zero => exact ⟨bs, rfl, hbs⟩
  | succ len ih =>
    obtain ⟨b, hsrc, hdst⟩ := hsame 0 (Nat.succ_pos _)
    obtain ⟨-, hsrc⟩ := (readIn_eq_ok _ _ _).mp hsrc
    obtain ⟨-, hdst⟩ := (readIn_eq_ok _ _ _).mp hdst
    obtain ⟨hlen, hget⟩ := inputTo_spec hbs
    have hbyte : bs[bs.length - dist]? = some b := by rw [hlen, hget _ (by omega)]; exact hsrc
    have hnext : SameBytes s (p + 1 - dist) (p + 1) len := fun i hi => by
      have := hsame (i + 1) (by omega)
      rwa [show p - dist + (i + 1) = p + 1 - dist + i by omega, show p + (i + 1) = p + 1 + i by omega] at this
    obtain ⟨bs', hcopy, hin⟩ := ih (by omega) hnext (inputTo_succ hbs hdst)
    refine ⟨bs', ?_, by rwa [show p + (len + 1) = p + 1 + len by omega]⟩
    rw [copyBack, if_pos hpos, hbyte]
    simp only [if_pos (show dist ≤ bs.length by omega), hcopy]

/-- A token that fits replays the bytes it covers (R37, R114). -/
theorem TokenFits.replay {tok : Token} {bs : List Byte} (h : TokenFits s tok) (hbs : s.inputTo s.p = some bs) :
    ∃ bs', replayToken bs tok = some bs' ∧ s.inputTo (s.p + Machine.covers tok) = some bs' := by
  cases tok with
  | literal b =>
    obtain ⟨-, hb⟩ := (readIn_eq_ok s s.p b).mp h
    exact ⟨bs ++ [b], rfl, inputTo_succ hbs hb⟩
  | backRef len dist =>
    obtain ⟨-, -, hcopy⟩ := h
    exact copyBack_inputTo hcopy.pos hcopy.back hcopy.same hbs

theorem replayFrom_concat (bs : List Byte) (ts : List Token) (tok : Token) :
    replayFrom bs (ts ++ [tok]) = (replayFrom bs ts).bind fun bs' => replayToken bs' tok := by
  induction ts generalizing bs with
  | nil => simp [replayFrom]
  | cons x ts ih => simp [replayFrom, ih, Option.bind_assoc]

/-! The invariant. -/

/-- Where a run only goes on and its tokens, its input and `p` stay, so does the replay. -/
theorem ReplayInv.congr (h : ReplayInv s) (hrun : t.phase.running = true → s.phase.running = true)
    (htok : t.tok = s.tok) (hntok : t.ntok = s.ntok) (hin : t.input = s.input) (hp : t.p = s.p) : ReplayInv t := by
  intro hr
  obtain ⟨ts, bs, hts, hbs, hreplay⟩ := h (hrun hr)
  refine ⟨ts, bs, ?_, by rw [inputTo_congr hin, hp, hbs], hreplay⟩
  rw [State.tokens, hntok, tokensTo_congr (s := s) fun i _ => by rw [htok]]
  exact hts

/-- Outside a run there is nothing to replay. -/
theorem ReplayInv.of_not_running (h : t.phase.running = false) : ReplayInv t := fun hr => by simp [h] at hr

theorem Emits.keeps_replay {tok : Token} (h : ReplayInv s) (he : Emits P s t tok) : ReplayInv t := by
  intro hr
  have hrest := he.rest
  obtain ⟨ts, bs, hts, hbs, hreplay⟩ := h (by rw [hrest] at hr; exact hr)
  obtain ⟨bs', htoken, hin⟩ := he.fits.replay hbs
  refine ⟨ts ++ [tok], bs', he.tokens hts, ?_, ?_⟩
  · rw [inputTo_congr (s := s) (by rw [hrest]), hrest]
    exact hin
  · rw [replay, replayFrom_concat, ← replay, hreplay]
    exact htoken

theorem matchStep_keeps_replay (h : ReplayInv s) (hrun : matchStep P s = .ok t) : ReplayInv t := by
  rcases matchStep_emits hrun with ⟨tok, he⟩ | ⟨sc, rfl⟩
  · exact he.keeps_replay h
  · exact .of_not_running rfl

/-- A run begins with no token and no byte (R164). -/
theorem startRun_keeps_replay (h : ReplayInv s) : ReplayInv (startRun P s) := by
  rcases startRun_cases P s with ⟨ht, -⟩ | ⟨ht, -⟩ | ⟨ht, -⟩ <;> rw [ht]
  · exact .of_not_running rfl
  · exact fun _ => ⟨[], [], rfl, rfl, rfl⟩
  · exact h

/-- An element keeps the tokens and the input, and begins no run. -/
theorem exec_keeps_replay {i : Instr} (h : ReplayInv s) (hi : i.position ≠ .ctrl) (hrun : exec i s = .next t) :
    ReplayInv t := by
  obtain ⟨hphase, hframe, -⟩ := exec_encoder_frame i s t hi hrun
  have same := hframe.keepsMatcher
  exact h.congr (fun _ => by rw [hphase]; rfl) same.tok same.ntok same.input same.p

theorem encFlush_not_running (P : Config.Params) (s : State) : (encFlush P s).state.phase.running = false := by
  rcases encFlush_cases P s with ht | ⟨u, -, ht, -⟩ <;> rw [ht] <;> rfl

end

/-- Every effect of a step keeps the replay. -/
theorem StepEffect.keeps_replay {s u t : State} (h : ReplayInv u) (heff : StepEffect s u t) : ReplayInv t := by
  cases heff with
  | reset runs ht => rw [ht]; exact .of_not_running rfl
  | start runs ht => rw [ht]; exact startRun_keeps_replay h
  | element i pos token run => exact exec_keeps_replay h pos run
  | nothing ht => rw [ht]; exact h
  | hostRead v ht => rw [ht]; exact h.congr id rfl rfl rfl rfl
  | hostInSize v due ht =>
    obtain ⟨n, f, hw, -⟩ := writeInSize_cases Config.params v u
    rw [ht, hw]
    exact h.congr id rfl rfl rfl rfl
  | hostIn i b due idle fits ht => rw [ht]; exact .of_not_running idle
  | matchStep phase more run => exact matchStep_keeps_replay h run
  | enterEncode phase all ht => rw [ht]; exact h.congr (fun _ => by rw [phase]; rfl) rfl rfl rfl rfl
  | flush phase ht => rw [ht]; exact .of_not_running (encFlush_not_running _ _)

/-- Settles O48: the replay does not look at `inbox`, and each effect of a step keeps it. -/
theorem stepKeepsTheReplayInvariant : Obligations.StepKeepsTheReplayInvariant := by
  intro s t _ h hstep
  obtain ⟨box, heff⟩ := step_effect hstep
  have hu : ReplayInv { s with inbox := box } := h.congr id rfl rfl rfl rfl
  exact heff.keeps_replay hu

end Sys2Proof.Machine
end

section
/-! The host's side of the memories: a write of `IN` out of its range stops (R58), a read changes nothing (R66), and what a
run has put in `TOK` and `OUT` stays (R54, R55). -/

namespace Sys2Proof.Machine

/-! Writes of `IN`. -/

/-- Settles O34: the host port refuses the write in every phase of a run, and compares its index with `N_MAX` in the
others. -/
theorem hostLoadStopsOutsideItsRange : Obligations.HostLoadStopsOutsideItsRange := by
  intro s t i b hdue
  obtain ⟨hphase, -⟩ := due_fields hdue
  refine ⟨fun hrun => ?_, fun hidle hi => ?_⟩
  · exact step_of_settled hdue (by simp [serve, writeIn, hphase, hrun])
  · exact step_of_settled hdue (by simp [serve, writeIn, hphase, hidle, Nat.not_lt.mpr hi])

/-! Reads. -/

/-- The read `r` returns one value, whatever the host has read before, and has no other effect (R66). -/
def ReadReturns (P : Config.Params) (r : Request) (s : State) : Prop :=
  ∃ v, ∀ x, serve P r { s with rdata := x } = .settled (.next (s.returns v))

/-- `IN_SIZE` reads the register outside a run, and the free value of its location during one (R22; log 9). -/
theorem readInSize_returns (P : Config.Params) (s : State) : ReadReturns P .readInSize s := by
  rcases hrun : s.phase.running with _ | _
  · exact ⟨s.inSize, fun x => by simp [serve, readInSize, hrun, State.returns]⟩
  · exact ⟨Config.freeRead s.withoutHost Request.readInSize % 2 ^ Config.posW P, fun x => by
      simp [serve, readInSize, hrun, State.returnsFree, State.returns, State.withoutHost]⟩

/-- `OUT_SIZE` reads `out_len` in `IDLE` and `DONE`, and the free value of its location otherwise (R26; log 9). -/
theorem readOutSize_returns (P : Config.Params) (s : State) : ReadReturns P .readOutSize s := by
  rcases hphase : s.phase with _ | _ | _ | _ | _
  case idle | done => exact ⟨s.outLen, fun x => by simp [serve, readOutSize, hphase, State.returns]⟩
  all_goals
    exact ⟨Config.freeRead s.withoutHost Request.readOutSize % 2 ^ (Config.posW P + 1), fun x => by
      simp [serve, readOutSize, hphase, State.returnsFree, State.returns, State.withoutHost]⟩

/-- A read of `OUT` is stuck only at an index below `out_len` that holds no value, and there is none (R55, R165). -/
theorem readOut_returns {P : Config.Params} {s : State} (h : SpaceInv P s) (i : Nat) : ReadReturns P (.readOut i) s := by
  by_cases hvalid : s.phase = .done ∧ i < s.outLen
  · have hfilled : (Memory.read s.out i).isSome := by rw [h.outFilled, decide_eq_true hvalid.2]
    obtain ⟨b, hbyte⟩ := Option.isSome_iff_exists.mp hfilled
    exact ⟨b.toNat, fun x => by simp [serve, readOut, hvalid, hbyte, State.returns]⟩
  · exact ⟨Config.freeRead s.withoutHost (Request.readOut i) % 2 ^ 8, fun x => by
      simp [serve, readOut, hvalid, State.returnsFree, State.returns, State.withoutHost]⟩

/-- Settles O36: what a read returns does not depend on what was read before, so the same read again returns it again. -/
theorem hostReadsHaveNoSideEffect : Obligations.HostReadsHaveNoSideEffect := by
  intro s t r hinv hdue hread
  have ht : Inv Config.params t := State.due_eq s t r hdue ▸ hinv.host t.inbox s.rdata
  have hreturns : ReadReturns Config.params r t := by
    rcases hread with rfl | rfl | rfl | rfl | rfl | ⟨i, rfl⟩
    · exact ⟨0, fun _ => rfl⟩
    · exact ⟨t.phase.code.toNat, fun _ => rfl⟩
    · exact readInSize_returns _ t
    · exact readOutSize_returns _ t
    · exact ⟨t.err.code.toNat, fun _ => rfl⟩
    · exact readOut_returns ht.spaces i
  obtain ⟨v, hserve⟩ := hreturns
  exact ⟨v, step_of_settled hdue (hserve t.rdata), step_of_settled (State.due_request _ r) (hserve (some v))⟩

/-! `TOK` and `OUT` during a run. -/

/-- `t` has the tokens and the bytes of `s`, and maybe more: tokens only where `s` is in `MATCH`, bytes only where it is in
`ENCODE` (R54, R55). -/
structure ExtendsBuffers (s t : State) : Prop where
  tokKept : ∀ i, i < s.ntok → Memory.read t.tok i = Memory.read s.tok i
  outKept : ∀ i, i < s.outLen → Memory.read t.out i = Memory.read s.out i
  ntok : s.ntok ≤ t.ntok
  outLen : s.outLen ≤ t.outLen
  tokPhase : t.tok ≠ s.tok → s.phase = .matching
  outPhase : t.out ≠ s.out → s.phase = .encoding

section
variable {P : Config.Params} {s t : State}

theorem ExtendsBuffers.of_eq (htok : t.tok = s.tok) (hntok : t.ntok = s.ntok) (hout : t.out = s.out)
    (hlen : t.outLen = s.outLen) : ExtendsBuffers s t where
  tokKept _ _ := by rw [htok]
  outKept _ _ := by rw [hout]
  ntok := hntok.ge
  outLen := hlen.ge
  tokPhase hne := absurd htok hne
  outPhase hne := absurd hout hne

/-- An operation of the encoder writes beyond `out_len` only. -/
theorem ExtendsBuffers.of_encoding (hphase : s.phase = .encoding) (htok : t.tok = s.tok) (hntok : t.ntok = s.ntok)
    (kept : ∀ i, i < s.outLen → Memory.read t.out i = Memory.read s.out i) (grows : s.outLen ≤ t.outLen) :
    ExtendsBuffers s t where
  tokKept _ _ := by rw [htok]
  outKept := kept
  ntok := hntok.ge
  outLen := grows
  tokPhase hne := absurd htok hne
  outPhase _ := hphase

theorem exec_extendsBuffers {i : Instr} (hi : i.position ≠ .ctrl) (hrun : exec i s = .next t) :
    ExtendsBuffers s t := by
  obtain ⟨hphase, hframe, -⟩ := exec_encoder_frame i s t hi hrun
  have same := hframe.keepsMatcher
  exact .of_encoding hphase same.tok same.ntok hframe.kept hframe.grows

theorem encFlush_extendsBuffers (hphase : s.phase = .encoding) : ExtendsBuffers s (encFlush P s).state := by
  rcases encFlush_cases P s with ht | ⟨u, -, ht, kept, grows, hrest⟩ <;> rw [ht]
  · exact .of_eq rfl rfl rfl rfl
  · exact .of_encoding hphase (by rw [hrest]) (by rw [hrest]) kept grows

theorem matchStep_extendsBuffers (hphase : s.phase = .matching) (hrun : matchStep P s = .ok t) :
    ExtendsBuffers s t := by
  obtain ⟨hrest, -, grows, kept⟩ := matchStep_frame P s t hrun
  have hout : t.out = s.out := by rw [hrest]
  have hlen : t.outLen = s.outLen := by rw [hrest]
  exact {
    tokKept := kept
    outKept := fun _ _ => by rw [hout]
    ntok := grows
    outLen := hlen.ge
    tokPhase := fun _ => hphase
    outPhase := fun hne => absurd hout hne }

end

/-- Every effect of a step but those of the two commands extends `TOK` and `OUT` or leaves them. -/
theorem StepEffect.extendsBuffers {s u t : State} (hstart : ¬ StepRuns .start s) (hreset : ¬ StepRuns .reset s)
    (heff : StepEffect s u t) : ExtendsBuffers u t := by
  cases heff with
  | reset runs ht => exact absurd runs hreset
  | start runs ht => exact absurd runs hstart
  | element i pos token run => exact exec_extendsBuffers pos run
  | matchStep phase more run => exact matchStep_extendsBuffers phase run
  | flush phase ht => rw [ht]; exact encFlush_extendsBuffers phase
  | hostInSize v due ht =>
    obtain ⟨n, f, hw, -⟩ := writeInSize_cases Config.params v u
    rw [ht, hw]
    exact .of_eq rfl rfl rfl rfl
  | nothing ht | hostRead v ht | hostIn i b due idle fits ht | enterEncode phase all ht =>
    rw [ht]
    exact .of_eq rfl rfl rfl rfl

/-- Settles O38: `inbox` is no part of the buffers, and each effect of a step that is no command extends them. -/
theorem tokensAndOutputAreAppendOnly : Obligations.TokensAndOutputAreAppendOnly := by
  intro s t hstep hstart hreset
  obtain ⟨box, heff⟩ := step_effect hstep
  have h := heff.extendsBuffers hstart hreset
  exact ⟨h.tokKept, h.outKept, h.ntok, h.outLen, h.tokPhase, h.outPhase⟩

end Sys2Proof.Machine
end

section
/-! The rows of the two code tables (R79, R81): which shapes are rows, and that the lookups of R122 and R123 answer exactly
them. -/

namespace Sys2Proof

/-! The rows. -/

/-- The operands of a length element: a code of the table and an extra value of its width (R79, R80). -/
structure LengthRow (code k e : Nat) : Prop where
  lower : 257 ≤ code
  upper : code ≤ 285
  extra : k = lenExtraOf code
  fits : e < 2 ^ k

/-- The operands of a distance element: a symbol of the table and an extra value of its width (R81, R82). -/
structure DistanceRow (symbol k e : Nat) : Prop where
  upper : symbol < 30
  extra : k = distExtraOf symbol
  fits : e < 2 ^ k

theorem lengthRow_of_shape {i : Instr} {code k e : Nat} (h : i.shape = .length code k e) : LengthRow code k e := by
  cases i
  case len257 | len258 | len259 | len260 | len261 | len262 | len263 | len264 | len285 =>
    cases h; exact ⟨by decide, by decide, rfl, by decide⟩
  case len265 x | len266 x | len267 x | len268 x | len269 x | len270 x | len271 x | len272 x | len273 x | len274 x |
      len275 x | len276 x | len277 x | len278 x | len279 x | len280 x | len281 x | len282 x | len283 x | len284 x =>
    cases h; exact ⟨by decide, by decide, rfl, x.isLt⟩
  all_goals cases h

theorem distanceRow_of_shape {i : Instr} {symbol k e : Nat} (h : i.shape = .distance symbol k e) :
    DistanceRow symbol k e := by
  cases i
  case dist0 | dist1 | dist2 | dist3 => cases h; exact ⟨by decide, rfl, by decide⟩
  case dist4 x | dist5 x | dist6 x | dist7 x | dist8 x | dist9 x | dist10 x | dist11 x | dist12 x | dist13 x | dist14 x |
      dist15 x | dist16 x | dist17 x | dist18 x | dist19 x | dist20 x | dist21 x | dist22 x | dist23 x | dist24 x |
      dist25 x | dist26 x | dist27 x | dist28 x | dist29 x =>
    cases h; exact ⟨by decide, rfl, x.isLt⟩
  all_goals cases h

theorem LengthRow.extra_le {code k e : Nat} (h : LengthRow code k e) : k ≤ 5 := by
  obtain ⟨-, hupper, hextra, -⟩ := h
  have hmax : lenExtraOf code ≤ 5 := (by decide : ∀ i, i < 29 → lenExtra.getD i 0 ≤ 5) (code - 257) (by omega)
  omega

theorem DistanceRow.extra_le {symbol k e : Nat} (h : DistanceRow symbol k e) : k ≤ 13 := by
  obtain ⟨hupper, hextra, -⟩ := h
  have hmax := (by decide : ∀ i, i < 30 → distExtraOf i ≤ 13) symbol hupper
  omega

/-! The range lookups. -/

/-- Entry `i` covers the values from its base up to the next one's (R122). -/
theorem coversAt_iff (base : List Nat) (v i : Nat) :
    coversAt base v i = true ↔ base.getD i 0 ≤ v ∧ (i + 1 = base.length ∨ v < base.getD (i + 1) 0) := by
  simp [coversAt]

/-- Every value from the first base on is covered: else each entry would lie below it, and the last one covers it. -/
theorem exists_coversAt {base : List Nat} {v : Nat} (hne : 0 < base.length) (hv : base.getD 0 0 ≤ v) :
    ∃ i, i < base.length ∧ coversAt base v i = true := by
  by_contra hnone
  have hbelow : ∀ i, i < base.length → base.getD i 0 ≤ v := by
    intro i hi
    induction i with
    | zero => exact hv
    | succ i ih =>
      by_contra hgt
      exact hnone ⟨i, by omega, (coversAt_iff base v i).mpr ⟨ih (by omega), .inr (by omega)⟩⟩
  exact hnone ⟨base.length - 1, by omega, (coversAt_iff base v _).mpr ⟨hbelow _ (by omega), .inl (by omega)⟩⟩

/-- The bases of a table rise. -/
def Rising (base : List Nat) : Prop := ∀ j i, j < i → i < base.length → base.getD j 0 < base.getD i 0

theorem lenBase_rising : Rising lenBase := by
  have h : ∀ i, i < 29 → ∀ j, j < i → lenBase.getD j 0 < lenBase.getD i 0 := by decide
  exact fun j i hj hi => h i hi j hj

theorem distBase_rising : Rising distBase := by
  have h : ∀ i, i < 30 → ∀ j, j < i → distBase.getD j 0 < distBase.getD i 0 := by decide
  exact fun j i hj hi => h i hi j hj

/-- The entry that covers a value, by the bases above the value. -/
theorem lt_base_iff {base : List Nat} (hbase : Rising base) {v i j : Nat} (hi : i < base.length)
    (hj : j < base.length) (hcov : coversAt base v i = true) : v < base.getD j 0 ↔ i < j := by
  obtain ⟨hle, hnext⟩ := (coversAt_iff base v i).mp hcov
  constructor
  · intro hlt
    by_contra hge
    rcases Nat.eq_or_lt_of_le (Nat.not_lt.mp hge) with rfl | hji
    · omega
    · have := hbase j i hji hi
      omega
  · intro hij
    have hv : v < base.getD (i + 1) 0 := hnext.resolve_left (by omega)
    rcases Nat.eq_or_lt_of_le (Nat.succ_le_of_lt hij) with rfl | hij'
    · exact hv
    · exact hv.trans (hbase _ j hij' hj)

/-- The lookup of a rising table answers the one entry that covers the value (R122). -/
theorem rangeIndex_eq_some {base : List Nat} (hbase : Rising base) (v i : Nat) :
    rangeIndex base v = some i ↔ i < base.length ∧ coversAt base v i = true := by
  rw [rangeIndex, List.find?_range_eq_some, List.mem_range]
  refine ⟨fun ⟨hcov, hi, _⟩ => ⟨hi, hcov⟩, fun ⟨hi, hcov⟩ => ⟨hcov, hi, fun j hj => ?_⟩⟩
  rw [Bool.not_eq_true', ← Bool.not_eq_true]
  intro hearlier
  have hlt := (lt_base_iff hbase (hj.trans hi) hi hearlier).mpr hj
  have hle := ((coversAt_iff base v i).mp hcov).1
  omega

/-- Code 284 is the one whose field is wider than its range (R87). -/
theorem lenBase_next : ∀ i, i < 28 → i ≠ 27 → lenBase.getD (i + 1) 0 = lenBase.getD i 0 + 2 ^ lenExtra.getD i 0 := by
  decide

theorem distBase_next : ∀ i, i < 29 → distBase.getD (i + 1) 0 = distBase.getD i 0 + 2 ^ distExtra.getD i 0 := by
  decide

/-- The entry of a length is the row whose base and extra value add up to it; code 284 leaves 258 to code 285. -/
theorem lenCovers_iff {i : Nat} (hi : i < 29) (len : Nat) :
    len ≤ 258 ∧ coversAt lenBase len i = true ↔
      ∃ e, e < 2 ^ lenExtra.getD i 0 ∧ (i = 27 → e ≤ 30) ∧ len = lenBase.getD i 0 + e := by
  have hlast : lenBase.getD 27 0 = 227 ∧ lenBase.getD 28 0 = 258 ∧ lenExtra.getD 27 0 = 5 ∧ lenExtra.getD 28 0 = 0 := by
    decide
  obtain ⟨hb27, hb28, he27, he28⟩ := hlast
  have hlen : lenBase.length = 29 := rfl
  rw [coversAt_iff, hlen]
  rcases (by omega : i = 28 ∨ i = 27 ∨ (i < 28 ∧ i ≠ 27)) with rfl | rfl | ⟨hlt, hne⟩
  · rw [hb28, he28]
    exact ⟨fun h => ⟨0, by omega⟩, fun ⟨e, h⟩ => by omega⟩
  · rw [hb27, hb28, he27]
    exact ⟨fun h => ⟨len - 227, by omega⟩, fun ⟨e, h⟩ => by omega⟩
  · have hnext := lenBase_next i hlt hne
    have hmax : lenBase.getD (i + 1) 0 ≤ 258 := by
      rcases Nat.lt_or_ge (i + 1) 28 with h | h
      · have := lenBase_rising (i + 1) 28 h (by decide)
        omega
      · rw [show i + 1 = 28 by omega, hb28]
    exact ⟨fun h => ⟨len - lenBase.getD i 0, by omega⟩, fun ⟨e, h⟩ => by omega⟩

/-- The entry of a distance is the row whose base and extra value add up to it. -/
theorem distCovers_iff {i : Nat} (hi : i < 30) (dist : Nat) :
    dist ≤ 32768 ∧ coversAt distBase dist i = true ↔
      ∃ e, e < 2 ^ distExtra.getD i 0 ∧ dist = distBase.getD i 0 + e := by
  have hlen : distBase.length = 30 := rfl
  rw [coversAt_iff, hlen]
  rcases (by omega : i = 29 ∨ i < 29) with rfl | hlt
  · have hlast : distBase.getD 29 0 = 24577 ∧ 2 ^ distExtra.getD 29 0 = 8192 := by decide
    obtain ⟨hb, he⟩ := hlast
    rw [hb, he]
    exact ⟨fun h => ⟨dist - 24577, by omega⟩, fun ⟨e, h⟩ => by omega⟩
  · have hnext := distBase_next i hlt
    have hmax : distBase.getD (i + 1) 0 ≤ 24577 := by
      rcases Nat.lt_or_ge (i + 1) 29 with h | h
      · have := distBase_rising (i + 1) 29 h (by decide)
        exact this.le
      · rw [show i + 1 = 29 by omega]; decide
    exact ⟨fun h => ⟨dist - distBase.getD i 0, by omega⟩, fun ⟨e, h⟩ => by omega⟩

/-- `LEN_LOOKUP` answers the rows of the table, but for code 284 with extra value 31 (R87, R122). -/
theorem lenLookup_eq_some {len code k e : Nat} :
    lenLookup len = some (code, k, e) ↔
      LengthRow code k e ∧ (code = 284 → e ≤ 30) ∧ len = lenBaseOf code + e := by
  have hlen : lenBase.length = 29 := rfl
  constructor
  · intro h
    simp only [lenLookup, Option.ite_none_right_eq_some, Option.map_eq_some_iff, rangeIndex_eq_some lenBase_rising,
      Prod.mk.injEq] at h
    obtain ⟨⟨-, hmax⟩, i, ⟨hi, hcov⟩, rfl, rfl, rfl⟩ := h
    obtain ⟨e, hfits, hmost, rfl⟩ := (lenCovers_iff hi len).mp ⟨hmax, hcov⟩
    rw [Nat.add_sub_cancel_left]
    exact ⟨⟨by omega, by omega, by simp [lenExtraOf], hfits⟩, fun h => hmost (by omega), by simp [lenBaseOf]⟩
  · rintro ⟨hrow, hmost, rfl⟩
    obtain ⟨i, hcode⟩ : ∃ i, code = 257 + i := Nat.exists_eq_add_of_le hrow.lower
    have hi : i < 29 := by have := hrow.upper; omega
    have hbase : lenBaseOf code = lenBase.getD i 0 := by simp [lenBaseOf, hcode]
    have hextra : k = lenExtra.getD i 0 := by simp [hrow.extra, lenExtraOf, hcode]
    obtain ⟨hmax, hcov⟩ := (lenCovers_iff hi (lenBase.getD i 0 + e)).mpr
      ⟨e, hextra ▸ hrow.fits, fun h => hmost (by omega), rfl⟩
    have hmin : 3 ≤ lenBase.getD i 0 := (by decide : ∀ i, i < 29 → 3 ≤ lenBase.getD i 0) i hi
    rw [hbase, lenLookup, if_pos ⟨by omega, hmax⟩, (rangeIndex_eq_some lenBase_rising _ i).mpr ⟨hi, hcov⟩]
    simp [hcode, hextra]

/-- The code of a length, by the bases above the length. -/
theorem lenLookup_lt_iff {len code k e : Nat} (h : lenLookup len = some (code, k, e)) {j : Nat} (hj : j < 29) :
    len < lenBase.getD j 0 ↔ code < 257 + j := by
  simp only [lenLookup, Option.ite_none_right_eq_some, Option.map_eq_some_iff, rangeIndex_eq_some lenBase_rising,
    Prod.mk.injEq] at h
  obtain ⟨-, i, ⟨hi, hcov⟩, rfl, -⟩ := h
  rw [lt_base_iff lenBase_rising hi hj hcov]
  omega

/-- `DIST_LOOKUP` answers the rows of the table (R123). -/
theorem distLookup_eq_some {dist symbol k e : Nat} :
    distLookup dist = some (symbol, k, e) ↔ DistanceRow symbol k e ∧ dist = distBaseOf symbol + e := by
  constructor
  · intro h
    simp only [distLookup, Option.ite_none_right_eq_some, Option.map_eq_some_iff, rangeIndex_eq_some distBase_rising,
      Prod.mk.injEq] at h
    obtain ⟨⟨-, hmax⟩, i, ⟨hi, hcov⟩, rfl, rfl, rfl⟩ := h
    obtain ⟨e, hfits, rfl⟩ := (distCovers_iff hi dist).mp ⟨hmax, hcov⟩
    rw [Nat.add_sub_cancel_left]
    exact ⟨⟨hi, rfl, hfits⟩, rfl⟩
  · rintro ⟨⟨hi, rfl, hfits⟩, rfl⟩
    obtain ⟨hmax, hcov⟩ := (distCovers_iff hi _).mpr ⟨e, hfits, rfl⟩
    have hmin : 1 ≤ distBase.getD symbol 0 := (by decide : ∀ i, i < 30 → 1 ≤ distBase.getD i 0) symbol hi
    simp only [distBaseOf, distExtraOf]
    rw [distLookup, if_pos ⟨by omega, hmax⟩, (rangeIndex_eq_some distBase_rising _ symbol).mpr ⟨hi, hcov⟩]
    simp

/-- Every length of a legal match has its row (R36, R122). -/
theorem exists_lenLookup {len : Nat} (hmin : 3 ≤ len) (hmax : len ≤ 258) :
    ∃ code k e, lenLookup len = some (code, k, e) := by
  obtain ⟨i, hi⟩ := exists_coversAt (base := lenBase) (by decide) hmin
  rw [lenLookup, if_pos ⟨hmin, hmax⟩, (rangeIndex_eq_some lenBase_rising _ i).mpr hi]
  exact ⟨_, _, _, rfl⟩

/-- Every distance of a legal match has its row (R36, R123). -/
theorem exists_distLookup {dist : Nat} (hmin : 1 ≤ dist) (hmax : dist ≤ 32768) :
    ∃ symbol k e, distLookup dist = some (symbol, k, e) := by
  obtain ⟨i, hi⟩ := exists_coversAt (base := distBase) (by decide) hmin
  rw [distLookup, if_pos ⟨hmin, hmax⟩, (rangeIndex_eq_some distBase_rising _ i).mpr hi]
  exact ⟨_, _, _, rfl⟩

end Sys2Proof
end

section
/-! The decoder and the encoder: at a position of the stream the decoder answers an instruction and a rest exactly where the
bits are the instruction's encoding and the rest (R72 to R88). -/

namespace Sys2Proof

/-! Codes, most significant bit first. -/

/-- The bits of a code are those of its upper half and then its lowest bit. -/
theorem msbBits_succ (n v : Nat) : msbBits (n + 1) v = msbBits n (v / 2) ++ [v.testBit 0] := by
  rw [msbBits_eq_reverse, lsbBits_succ, List.reverse_cons, msbBits_eq_reverse]

/-- Every bit list is the code of the number it stands for. -/
theorem msbBits_natOfMsb (bs : List Bool) : msbBits bs.length (natOfMsb bs) = bs := by
  have h := lsbBits_natOfLsb bs.reverse
  rw [List.length_reverse] at h
  rw [natOfMsb_eq_reverse, msbBits_eq_reverse, h, List.reverse_reverse]

theorem natOfMsb_lt (bs : List Bool) : natOfMsb bs < 2 ^ bs.length := by
  simpa [natOfMsb_eq_reverse] using natOfLsb_lt bs.reverse

theorem takeBits_lsbBits (n v : Nat) (rest : List Bool) :
    takeBits n (lsbBits n v ++ rest) = some (lsbBits n v, rest) := by
  simpa using takeBits_append (lsbBits n v) rest

theorem takeBits_msbBits (n v : Nat) (rest : List Bool) :
    takeBits n (msbBits n v ++ rest) = some (msbBits n v, rest) := by
  simpa using takeBits_append (msbBits n v) rest

/-- The next bit of a code doubles it (`getcode` of R88). -/
theorem two_mul_div_two_add_testBit (v : Nat) : 2 * (v / 2) + (v.testBit 0).toNat = v := by
  rw [Nat.testBit_zero]
  rcases Nat.mod_two_eq_zero_or_one v with h | h <;> simp [h] <;> omega

theorem two_mul_add_bool_div_two (v : Nat) (b : Bool) : (2 * v + b.toNat) / 2 = v := by
  cases b <;> simp; omega

theorem testBit_zero_two_mul_add_bool (v : Nat) (b : Bool) : (2 * v + b.toNat).testBit 0 = b := by
  cases b <;> simp [Nat.testBit_zero, Nat.add_mod]

/-- A code of which all but the last bit are read, and its last bit. -/
theorem msbBits_two_mul_add (n v : Nat) (b : Bool) : msbBits (n + 1) (2 * v + b.toNat) = msbBits n v ++ [b] := by
  rw [msbBits_succ, two_mul_add_bool_div_two, testBit_zero_two_mul_add_bool]

/-! Extra fields. -/

theorem eq_of_lsbBits_eq {n v w : Nat} (hv : v < 2 ^ n) (hw : w < 2 ^ n) (h : lsbBits n v = lsbBits n w) : v = w := by
  have hnat := congrArg natOfLsb h
  rwa [natOfLsb_lsbBits, natOfLsb_lsbBits, Nat.mod_eq_of_lt hv, Nat.mod_eq_of_lt hw] at hnat

theorem withField_lsbBits {n : Nat} (e : BitVec n) (rest : List Bool) (k : BitVec n → Instr) :
    withField n (lsbBits n e.toNat ++ rest) k = .ok (k e, rest) := by
  rw [withField, takeBits_lsbBits]
  simp [natOfLsb_lsbBits]

theorem withField_eq_ok {n : Nat} {bits rest : List Bool} {k : BitVec n → Instr} {i : Instr}
    (h : withField n bits k = .ok (i, rest)) : ∃ e, i = k e ∧ bits = lsbBits n e.toNat ++ rest := by
  unfold withField at h
  split at h <;> cases h
  rename_i xs htake
  obtain ⟨hlen, hbits⟩ := takeBits_eq_some n bits xs rest htake
  refine ⟨_, rfl, ?_⟩
  have hlt := natOfLsb_lt xs
  rw [hlen] at hlt
  rw [BitVec.toNat_ofNat, Nat.mod_eq_of_lt hlt, hbits, ← hlen, lsbBits_natOfLsb]

/-! Length and distance elements. -/

theorem encodeBits_length {i : Instr} {code k e : Nat} (h : i.shape = .length code k e) :
    encodeBits i = lengthCodeBits code ++ lsbBits k e := by
  rw [encodeBits, h, Shape.bits]

theorem encodeBits_distance {i : Instr} {symbol k e : Nat} (h : i.shape = .distance symbol k e) :
    encodeBits i = msbBits 5 symbol ++ lsbBits k e := by
  rw [encodeBits, h, Shape.bits]

/-- A length element is read back from its extra field (R79, R80). -/
theorem lengthElement_of_shape {i : Instr} {code k e : Nat} (h : i.shape = .length code k e) (rest : List Bool) :
    lengthElement code (lsbBits k e ++ rest) = .ok (i, rest) := by
  cases i
  case len257 | len258 | len259 | len260 | len261 | len262 | len263 | len264 | len285 => cases h; rfl
  case len265 x | len266 x | len267 x | len268 x | len269 x | len270 x | len271 x | len272 x | len273 x | len274 x |
      len275 x | len276 x | len277 x | len278 x | len279 x | len280 x | len281 x | len282 x | len283 x | len284 x =>
    cases h; exact withField_lsbBits x rest _
  all_goals cases h

/-- A distance element is read back from its extra field (R81, R82). -/
theorem distanceElement_of_shape {i : Instr} {symbol k e : Nat} (h : i.shape = .distance symbol k e)
    (rest : List Bool) : distanceElement symbol (lsbBits k e ++ rest) = .ok (i, rest) := by
  cases i
  case dist0 | dist1 | dist2 | dist3 => cases h; rfl
  case dist4 x | dist5 x | dist6 x | dist7 x | dist8 x | dist9 x | dist10 x | dist11 x | dist12 x | dist13 x | dist14 x |
      dist15 x | dist16 x | dist17 x | dist18 x | dist19 x | dist20 x | dist21 x | dist22 x | dist23 x | dist24 x |
      dist25 x | dist26 x | dist27 x | dist28 x | dist29 x =>
    cases h; exact withField_lsbBits x rest _
  all_goals cases h

theorem lengthElement_eq_ok {code : Nat} {bits rest : List Bool} {i : Instr}
    (h : lengthElement code bits = .ok (i, rest)) : ∃ k e, i.shape = .length code k e ∧ bits = lsbBits k e ++ rest := by
  unfold lengthElement at h
  split at h
  case h_1 | h_2 | h_3 | h_4 | h_5 | h_6 | h_7 | h_8 | h_29 => cases h; exact ⟨0, 0, rfl, rfl⟩
  case h_30 => cases h
  all_goals obtain ⟨e, rfl, hbits⟩ := withField_eq_ok h; exact ⟨_, _, rfl, hbits⟩

theorem distanceElement_eq_ok {symbol : Nat} {bits rest : List Bool} {i : Instr}
    (h : distanceElement symbol bits = .ok (i, rest)) :
    ∃ k e, i.shape = .distance symbol k e ∧ bits = lsbBits k e ++ rest := by
  unfold distanceElement at h
  split at h
  case h_1 | h_2 | h_3 | h_4 => cases h; exact ⟨0, 0, rfl, rfl⟩
  case h_31 => cases h
  all_goals obtain ⟨e, rfl, hbits⟩ := withField_eq_ok h; exact ⟨_, _, rfl, hbits⟩

/-- Every row of the length table has its instruction. -/
theorem exists_shape_length {code k e : Nat} (h : LengthRow code k e) : ∃ i : Instr, i.shape = .length code k e := by
  obtain ⟨hlower, hupper, hextra, hfits⟩ := h
  have hread : ∃ i, lengthElement code (lsbBits k e) = .ok (i, []) := by
    rw [hextra]
    interval_cases code <;> exact ⟨_, rfl⟩
  obtain ⟨i, hi⟩ := hread
  obtain ⟨k', e', hshape, hbits⟩ := lengthElement_eq_ok hi
  have hrow := lengthRow_of_shape hshape
  obtain rfl : k' = k := hrow.extra.trans hextra.symm
  obtain rfl : e = e' := eq_of_lsbBits_eq hfits hrow.fits (by simpa using hbits)
  exact ⟨i, hshape⟩

/-- Every row of the distance table has its instruction. -/
theorem exists_shape_distance {symbol k e : Nat} (h : DistanceRow symbol k e) :
    ∃ i : Instr, i.shape = .distance symbol k e := by
  obtain ⟨hupper, hextra, hfits⟩ := h
  have hread : ∃ i, distanceElement symbol (lsbBits k e) = .ok (i, []) := by
    rw [hextra]
    interval_cases symbol <;> exact ⟨_, rfl⟩
  obtain ⟨i, hi⟩ := hread
  obtain ⟨k', e', hshape, hbits⟩ := distanceElement_eq_ok hi
  have hrow := distanceRow_of_shape hshape
  obtain rfl : k' = k := hrow.extra.trans hextra.symm
  obtain rfl : e = e' := eq_of_lsbBits_eq hfits hrow.fits (by simpa using hbits)
  exact ⟨i, hshape⟩

/-! A literal/length position: the codes of 7, 8 and 9 bits (R74). -/

/-- A code of 7 bits that is not the `EOB`'s. -/
theorem decodeLitLen_code7 {c : Nat} (hpos : 0 < c) (hmax : c ≤ 0x17) (rest : List Bool) :
    decodeLitLen (msbBits 7 c ++ rest) = lengthElement (256 + c) rest := by
  have hc : c % 2 ^ 7 = c := Nat.mod_eq_of_lt (by omega)
  simp only [decodeLitLen, takeBits_msbBits, natOfMsb_msbBits, hc, hmax, if_true, if_neg (show c ≠ 0 by omega)]

/-- A code of 8 bits: a literal up to `0xBF`, a length from `0xC0` on. -/
theorem decodeLitLen_code8 {c : Nat} (hmin : 0x30 ≤ c) (hmax : c ≤ 0xC7) (rest : List Bool) :
    decodeLitLen (msbBits 8 c ++ rest) =
      if c ≤ 0xBF then .ok (.lit8 (BitVec.ofNat 8 (c - 0x30)), rest) else lengthElement (280 + (c - 0xC0)) rest := by
  have hc : c / 2 % 2 ^ 7 = c / 2 := Nat.mod_eq_of_lt (by omega)
  rw [msbBits_succ, List.append_assoc]
  simp only [decodeLitLen, takeBits_msbBits, natOfMsb_msbBits, hc, List.singleton_append,
    two_mul_div_two_add_testBit, hmax, if_true, if_neg (show c / 2 ≠ 0 by omega), if_neg (show ¬ c / 2 ≤ 0x17 by omega)]

/-- A code of 9 bits is a literal. -/
theorem decodeLitLen_code9 {c : Nat} (hmin : 0x190 ≤ c) (hmax : c < 0x200) (rest : List Bool) :
    decodeLitLen (msbBits 9 c ++ rest) = .ok (.lit9 (BitVec.ofNat 8 (144 + (c - 0x190))), rest) := by
  have hc : c / 2 / 2 % 2 ^ 7 = c / 2 / 2 := Nat.mod_eq_of_lt (by omega)
  rw [msbBits_succ, msbBits_succ, List.append_assoc, List.append_assoc]
  simp only [decodeLitLen, takeBits_msbBits, natOfMsb_msbBits, hc, List.singleton_append,
    two_mul_div_two_add_testBit, if_neg (show c / 2 / 2 ≠ 0 by omega), if_neg (show ¬ c / 2 / 2 ≤ 0x17 by omega),
    if_neg (show ¬ c / 2 ≤ 0xBF by omega), if_neg (show ¬ c / 2 ≤ 0xC7 by omega)]

theorem decode_literal8 {b : Byte} (hb : b.toNat ≤ 143) (rest : List Bool) :
    decode .litLen (encodeBits (.lit8 b) ++ rest) = .ok (.lit8 b, rest) := by
  show decodeLitLen (msbBits 8 (0x30 + b.toNat) ++ rest) = _
  rw [decodeLitLen_code8 (by omega) (by omega), if_pos (by omega)]
  simp

theorem decode_literal9 {b : Byte} (hb : 144 ≤ b.toNat) (rest : List Bool) :
    decode .litLen (encodeBits (.lit9 b) ++ rest) = .ok (.lit9 b, rest) := by
  show decodeLitLen (msbBits 9 (0x190 + (b.toNat - 144)) ++ rest) = _
  rw [decodeLitLen_code9 (by omega) (by omega), Nat.add_sub_cancel_left, Nat.add_sub_cancel' hb]
  simp

/-- A length element is read back, the pair of code 284 and 31 as well (R88). -/
theorem decode_length {i : Instr} {code k e : Nat} (h : i.shape = .length code k e) (rest : List Bool) :
    decode .litLen (encodeBits i ++ rest) = .ok (i, rest) := by
  obtain ⟨hlower, hupper, -, -⟩ := lengthRow_of_shape h
  rw [decode, encodeBits_length h, lengthCodeBits, List.append_assoc]
  split
  · rw [decodeLitLen_code7 (by omega) (by omega), Nat.add_sub_cancel' (by omega)]
    exact lengthElement_of_shape h rest
  · rw [decodeLitLen_code8 (by omega) (by omega), if_neg (by omega), Nat.add_sub_cancel_left,
      Nat.add_sub_cancel' (by omega)]
    exact lengthElement_of_shape h rest

theorem decodeDistance_code {c : Nat} (hc : c < 32) (rest : List Bool) :
    decodeDistance (msbBits 5 c ++ rest) = distanceElement c rest := by
  simp only [decodeDistance, takeBits_msbBits, natOfMsb_msbBits, Nat.mod_eq_of_lt (show c < 2 ^ 5 from hc)]

theorem decode_distance {i : Instr} {symbol k e : Nat} (h : i.shape = .distance symbol k e) (rest : List Bool) :
    decode .dist (encodeBits i ++ rest) = .ok (i, rest) := by
  have hsymbol := (distanceRow_of_shape h).upper
  rw [decode, encodeBits_distance h, List.append_assoc, decodeDistance_code (by omega)]
  exact distanceElement_of_shape h rest

/-! Token words. -/

/-- The fields of a token word make it up (R85). -/
theorem tokenWord_eq_append (w : TokenWord) :
    w.extractLsb' 23 1 ++ w.extractLsb' 8 15 ++ w.extractLsb' 0 8 = w := by
  rw [BitVec.extractLsb'_append_extractLsb'_eq_extractLsb' (show 23 = 8 + 15 from rfl),
    BitVec.extractLsb'_append_extractLsb'_eq_extractLsb' (show 8 = 0 + 8 from rfl), BitVec.extractLsb'_eq_self]

/-- Bit 23 of a token word is its tag (R85). -/
theorem tokenWord_tag (w : TokenWord) : w.extractLsb' 23 1 = BitVec.ofBool (w.getLsbD 23) := by
  apply BitVec.eq_of_getLsbD_eq
  intro i hi
  obtain rfl : i = 0 := by omega
  simp

/-- A word with tag 1 is a match's (R85). -/
theorem tokenWord_of_tag {w : TokenWord} (h : w.getLsbD 23 = true) :
    w = 1#1 ++ w.extractLsb' 8 15 ++ w.extractLsb' 0 8 := by
  have hw := tokenWord_eq_append w
  rw [tokenWord_tag, h] at hw
  exact hw.symm

/-- A word with tag 0 and bits 22:8 zero is a literal's (R85). -/
theorem tokenWord_of_no_tag {w : TokenWord} (h : w.getLsbD 23 = false) (hzero : w.extractLsb' 8 15 = 0#15) :
    w = 0#16 ++ w.extractLsb' 0 8 := by
  have hw := tokenWord_eq_append w
  rw [tokenWord_tag, h, hzero] at hw
  exact hw.symm

theorem literalWord_toNat (b : Byte) : (0#16 ++ b).toNat = b.toNat := by
  rw [BitVec.toNat_append, BitVec.toNat_zero, Nat.zero_shiftLeft, Nat.zero_or]

theorem matchWord_toNat (l : BitVec 8) (d : BitVec 15) :
    (1#1 ++ d ++ l).toNat = 2 ^ 23 + d.toNat * 2 ^ 8 + l.toNat := by
  rw [BitVec.toNat_append, BitVec.toNat_append, ← Nat.shiftLeft_add_eq_or_of_lt d.isLt,
    ← Nat.shiftLeft_add_eq_or_of_lt l.isLt, Nat.shiftLeft_eq, Nat.shiftLeft_eq, Nat.add_mul]
  rfl

theorem decodeTokenWord_literal (b : Byte) : decodeTokenWord (0#16 ++ b) = .ok (.tokLit b) := by
  obtain ⟨htag, hbyte, hzero⟩ := Machine.literalWord_fields b
  simp only [decodeTokenWord, htag, hbyte, hzero, Bool.false_eq_true, if_false, if_true]

theorem decodeTokenWord_match (l : BitVec 8) (d : BitVec 15) :
    decodeTokenWord (1#1 ++ d ++ l) = .ok (.tokMatch l d) := by
  obtain ⟨htag, hlen, hdist⟩ := Machine.matchWord_fields d l
  simp only [decodeTokenWord, htag, hlen, hdist, if_true]

theorem encodeBits_tokLit (b : Byte) : encodeBits (.tokLit b) = lsbBits 24 (0#16 ++ b).toNat := by
  rw [literalWord_toNat]; rfl

theorem encodeBits_tokMatch (l : BitVec 8) (d : BitVec 15) :
    encodeBits (.tokMatch l d) = lsbBits 24 (1#1 ++ d ++ l).toNat := by
  rw [matchWord_toNat]; rfl

/-- A legal token word is the encoding of what it decodes to (R85). -/
theorem encodeBits_of_decodeTokenWord {w : TokenWord} {i : Instr} (h : decodeTokenWord w = .ok i) :
    encodeBits i = lsbBits 24 w.toNat := by
  unfold decodeTokenWord at h
  split at h
  · rename_i htag
    cases h
    rw [encodeBits_tokMatch, ← tokenWord_of_tag htag]
  · rename_i htag
    split at h <;> cases h
    rename_i hzero
    rw [encodeBits_tokLit, ← tokenWord_of_no_tag (by simpa using htag) hzero]

theorem decodeToken_word {w : TokenWord} {i : Instr} (h : decodeTokenWord w = .ok i) (rest : List Bool) :
    decodeToken (lsbBits 24 w.toNat ++ rest) = .ok (i, rest) := by
  simp only [decodeToken, takeBits_lsbBits, natOfLsb_lsbBits, Nat.mod_eq_of_lt w.isLt, BitVec.ofNat_toNat,
    BitVec.setWidth_eq, h]

/-! The round trip. -/

/-- Settles O12, by position: a code is read back by its first bits, a field by its width, a token word by its tag. -/
theorem decodeOfEncodeIsIdentity : Obligations.DecodeOfEncodeIsIdentity := by
  intro i rest hwf
  cases i
  case hdr | eob | start | reset => rfl
  case lit8 b => exact decode_literal8 (of_decide_eq_true hwf) rest
  case lit9 b => exact decode_literal9 (of_decide_eq_true hwf) rest
  case tokLit b =>
    rw [encodeBits_tokLit]
    exact decodeToken_word (decodeTokenWord_literal b) rest
  case tokMatch l d =>
    rw [encodeBits_tokMatch]
    exact decodeToken_word (decodeTokenWord_match l d) rest
  case len257 | len258 | len259 | len260 | len261 | len262 | len263 | len264 | len265 | len266 |
      len267 | len268 | len269 | len270 | len271 | len272 | len273 | len274 | len275 | len276 |
      len277 | len278 | len279 | len280 | len281 | len282 | len283 | len284 | len285 =>
    exact decode_length rfl rest
  all_goals exact decode_distance rfl rest

/-! The converse. -/

theorem encodeBits_lit8_code {c : Nat} (hmin : 0x30 ≤ c) (hmax : c ≤ 0xBF) :
    encodeBits (.lit8 (BitVec.ofNat 8 (c - 0x30))) = msbBits 8 c := by
  rw [encodeBits, Instr.shape, Shape.bits, BitVec.toNat_ofNat, Nat.mod_eq_of_lt (by omega), Nat.add_sub_cancel' hmin]

theorem encodeBits_lit9_code {c : Nat} (hmin : 0x190 ≤ c) (hmax : c < 0x200) :
    encodeBits (.lit9 (BitVec.ofNat 8 (144 + (c - 0x190)))) = msbBits 9 c := by
  rw [encodeBits, Instr.shape, Shape.bits, BitVec.toNat_ofNat, Nat.mod_eq_of_lt (by omega), Nat.add_sub_cancel_left,
    Nat.add_sub_cancel' hmin]

theorem decodeHeader_bits {bits rest : List Bool} {i : Instr} (h : decodeHeader bits = .ok (i, rest)) :
    bits = encodeBits i ++ rest := by
  have blockType_one : ∀ t0 t1, natOfLsb [t0, t1] = 1 → [t0, t1] = [true, false] := by decide
  unfold decodeHeader at h
  split at h
  · rename_i final t0 t1 rest'
    split at h
    · rename_i hfinal
      split at h <;> cases h
      rename_i htype
      cases blockType_one t0 t1 htype
      rw [hfinal]
      rfl
    · cases h
  · cases h

theorem decodeLitLen_bits {bits rest : List Bool} {i : Instr} (h : decodeLitLen bits = .ok (i, rest)) :
    bits = encodeBits i ++ rest := by
  unfold decodeLitLen at h
  split at h
  · cases h
  rename_i c bits' htake
  obtain ⟨hlen, rfl⟩ := takeBits_eq_some 7 bits c bits' htake
  have hcode := msbBits_natOfMsb c
  have hlt := natOfMsb_lt c
  rw [hlen] at hcode hlt
  rw [← hcode]
  generalize natOfMsb c = c7 at *
  dsimp only at h
  split at h
  · cases h
    subst c7
    rfl
  split at h
  · obtain ⟨k, e, hshape, rfl⟩ := lengthElement_eq_ok h
    rw [encodeBits_length hshape, lengthCodeBits, if_pos (by omega), Nat.add_sub_cancel_left, List.append_assoc]
  split at h
  · cases h
  rename_i b8 bits'
  have hb8 := b8.toNat_le
  rw [List.append_cons, ← msbBits_two_mul_add]
  split at h
  · cases h
    rw [encodeBits_lit8_code (by omega) (by omega)]
  split at h
  · obtain ⟨k, e, hshape, rfl⟩ := lengthElement_eq_ok h
    rw [encodeBits_length hshape, lengthCodeBits, if_neg (by omega), Nat.add_sub_cancel_left,
      Nat.add_sub_cancel' (by omega), List.append_assoc]
  split at h <;> cases h
  rename_i b9
  have hb9 := b9.toNat_le
  rw [List.append_cons, ← msbBits_two_mul_add, encodeBits_lit9_code (by omega) (by omega)]

theorem decodeDistance_bits {bits rest : List Bool} {i : Instr} (h : decodeDistance bits = .ok (i, rest)) :
    bits = encodeBits i ++ rest := by
  unfold decodeDistance at h
  split at h
  · cases h
  · rename_i c bits' htake
    obtain ⟨hlen, rfl⟩ := takeBits_eq_some 5 bits c bits' htake
    obtain ⟨k, e, hshape, rfl⟩ := distanceElement_eq_ok h
    have hc := msbBits_natOfMsb c
    rw [hlen] at hc
    rw [encodeBits_distance hshape, hc, List.append_assoc]

theorem decodeToken_bits {bits rest : List Bool} {i : Instr} (h : decodeToken bits = .ok (i, rest)) :
    i.position = .token ∧ bits = encodeBits i ++ rest := by
  unfold decodeToken at h
  split at h
  · cases h
  · rename_i w bits' htake
    obtain ⟨hlen, rfl⟩ := takeBits_eq_some 24 bits w bits' htake
    split at h <;> cases h
    rename_i hword
    have hlt := natOfLsb_lt w
    have hw := lsbBits_natOfLsb w
    rw [hlen] at hlt hw
    refine ⟨decodeTokenWord_position hword, ?_⟩
    rw [encodeBits_of_decodeTokenWord hword, BitVec.toNat_ofNat, Nat.mod_eq_of_lt hlt, hw]

/-- Settles O13, by position: each read takes its bits off the front, and every bit list is the code or the field of its
number. -/
theorem decodedBitsAreTheEncoding : Obligations.DecodedBitsAreTheEncoding := by
  intro pos bits rest i hpos h
  cases pos with
  | header => exact ⟨decodeHeader_position h, decodeHeader_bits h⟩
  | litLen => exact ⟨decodeLitLen_position h, decodeLitLen_bits h⟩
  | dist => exact ⟨decodeDistance_position h, decodeDistance_bits h⟩
  | token => exact decodeToken_bits h
  | ctrl => exact absurd rfl hpos

end Sys2Proof
end

section
/-! The words, the widths and the refusals of the encoding (R84, R85, R87), and the stream read back: the decoder of R88
inverts the block of every legal TokenStream (R156). -/

namespace Sys2Proof

/-! The lookups of a legal match. -/

/-- A legal match has a row for its length and one for its distance (R36, R122, R123). -/
theorem exists_match_rows {len dist : Nat} (h : (Token.backRef len dist).legal = true) :
    ∃ code k e symbol k' e', lenLookup len = some (code, k, e) ∧ distLookup dist = some (symbol, k', e') := by
  obtain ⟨hminLen, hmaxLen, hminDist, hmaxDist⟩ := of_decide_eq_true h
  obtain ⟨code, k, e, hlen⟩ := exists_lenLookup hminLen hmaxLen
  obtain ⟨symbol, k', e', hdist⟩ := exists_distLookup hminDist hmaxDist
  exact ⟨code, k, e, symbol, k', e', hlen, hdist⟩

theorem tokenBits_literal (b : Byte) :
    Machine.tokenBits (.literal b) =
      if b.toNat ≤ 143 then msbBits 8 (0x30 + b.toNat) else msbBits 9 (0x190 + (b.toNat - 144)) := rfl

theorem tokenBits_backRef {len dist code k e symbol k' e' : Nat} (hlen : lenLookup len = some (code, k, e))
    (hdist : distLookup dist = some (symbol, k', e')) :
    Machine.tokenBits (.backRef len dist) =
      (lengthCodeBits code ++ lsbBits k e) ++ (msbBits 5 symbol ++ lsbBits k' e') := by
  simp [Machine.tokenBits, hlen, hdist]

/-! The words of tokens (R85). -/

theorem backRef_word_toNat {len dist : Nat} (h : (Token.backRef len dist).legal = true) :
    (Token.backRef len dist).word.toNat = 2 ^ 23 + (dist - 1) * 2 ^ 8 + (len - 3) := by
  obtain ⟨hminLen, hmaxLen, hminDist, hmaxDist⟩ := of_decide_eq_true h
  rw [Token.word, matchWord_toNat, BitVec.toNat_ofNat, BitVec.toNat_ofNat, Nat.mod_eq_of_lt (by omega),
    Nat.mod_eq_of_lt (by omega)]

/-- Every word with tag 1 is that of a legal match: no field value is out of range (R36, R85). -/
theorem exists_backRef_of_tag {w : TokenWord} (h : w.getLsbD 23 = true) :
    ∃ len dist, tokenOfWord w = some (.backRef len dist) ∧ (Token.backRef len dist).legal = true ∧
      (Token.backRef len dist).word = w := by
  have hl := (w.extractLsb' 0 8).isLt
  have hd := (w.extractLsb' 8 15).isLt
  refine ⟨(w.extractLsb' 0 8).toNat + 3, (w.extractLsb' 8 15).toNat + 1, ?_, ?_, ?_⟩
  · rw [tokenOfWord, decodeTokenWord, if_pos h]
    rfl
  · exact decide_eq_true (by omega)
  · rw [Token.word, Nat.add_sub_cancel, Nat.add_sub_cancel, BitVec.ofNat_toNat, BitVec.ofNat_toNat, BitVec.setWidth_eq,
      BitVec.setWidth_eq, ← tokenWord_of_tag h]

/-- A word with tag 0 and a bit of 22:8 set is no token's (R85, R87). -/
theorem decodeTokenWord_illegal {w : TokenWord} (htag : w.getLsbD 23 = false) (hne : w.extractLsb' 8 15 ≠ 0#15) :
    decodeTokenWord w = .error .illegalTokenWord := by
  rw [decodeTokenWord, if_neg (by rw [htag]; decide), if_neg hne]

/-- Settles O15, by the fields that make up a word. -/
theorem tokenWordRoundTrip : Obligations.TokenWordRoundTrip :=
  ⟨literalWord_toNat, fun _ _ h => backRef_word_toNat h, fun _ h => Machine.tokenOfWord_word h,
    fun _ h => exists_backRef_of_tag h, fun _ htag hne => by rw [tokenOfWord, decodeTokenWord_illegal htag hne]⟩

/-! Widths (R84). -/

@[simp] theorem lengthCodeBits_length (code : Nat) : (lengthCodeBits code).length = if code ≤ 279 then 7 else 8 := by
  unfold lengthCodeBits
  split <;> simp

/-- The bits of each code of the length table (R79, R84). -/
theorem lengthCode_width {code : Nat} (hlower : 257 ≤ code) (hupper : code ≤ 285) :
    (if code ≤ 279 then 7 else 8) + lenExtraOf code =
      if code < 265 then 7 else if code < 269 then 7 + 1 else if code < 273 then 7 + 2 else if code < 277 then 7 + 3
      else if code < 280 then 7 + 4 else if code < 281 then 8 + 4 else if code < 285 then 8 + 5 else 8 := by
  interval_cases code <;> rfl

/-- The bits of a length element, by the first length of each width (R84). -/
theorem lengthElement_width {len code k e : Nat} (h : lenLookup len = some (code, k, e)) :
    (lengthCodeBits code ++ lsbBits k e).length =
      if len ≤ 10 then 7 else if len ≤ 18 then 7 + 1 else if len ≤ 34 then 7 + 2 else if len ≤ 66 then 7 + 3
      else if len ≤ 114 then 7 + 4 else if len ≤ 130 then 8 + 4 else if len ≤ 257 then 8 + 5 else 8 := by
  obtain ⟨⟨hlower, hupper, hextra, -⟩, -⟩ := lenLookup_eq_some.mp h
  have h10 : len ≤ 10 ↔ code < 265 := Nat.lt_succ_iff.symm.trans (lenLookup_lt_iff h (j := 8) (by decide))
  have h18 : len ≤ 18 ↔ code < 269 := Nat.lt_succ_iff.symm.trans (lenLookup_lt_iff h (j := 12) (by decide))
  have h34 : len ≤ 34 ↔ code < 273 := Nat.lt_succ_iff.symm.trans (lenLookup_lt_iff h (j := 16) (by decide))
  have h66 : len ≤ 66 ↔ code < 277 := Nat.lt_succ_iff.symm.trans (lenLookup_lt_iff h (j := 20) (by decide))
  have h114 : len ≤ 114 ↔ code < 280 := Nat.lt_succ_iff.symm.trans (lenLookup_lt_iff h (j := 23) (by decide))
  have h130 : len ≤ 130 ↔ code < 281 := Nat.lt_succ_iff.symm.trans (lenLookup_lt_iff h (j := 24) (by decide))
  have h257 : len ≤ 257 ↔ code < 285 := Nat.lt_succ_iff.symm.trans (lenLookup_lt_iff h (j := 28) (by decide))
  simp only [List.length_append, lengthCodeBits_length, lsbBits_length, hextra, h10, h18, h34, h66, h114, h130, h257]
  exact lengthCode_width hlower hupper

/-- A length element has between 7 and 13 bits. -/
theorem lengthRow_width {code k e : Nat} (h : LengthRow code k e) :
    7 ≤ (lengthCodeBits code ++ lsbBits k e).length ∧ (lengthCodeBits code ++ lsbBits k e).length ≤ 13 := by
  have hk := h.extra_le
  rw [List.length_append, lengthCodeBits_length, lsbBits_length]
  split <;> omega

theorem distanceRow_width {symbol k e : Nat} (h : DistanceRow symbol k e) :
    5 ≤ (msbBits 5 symbol ++ lsbBits k e).length ∧ (msbBits 5 symbol ++ lsbBits k e).length ≤ 18 := by
  have hk := h.extra_le
  rw [List.length_append, msbBits_length, lsbBits_length]
  omega

/-- A legal match has between 12 and 31 bits (R84, R155). -/
theorem backRef_width {len dist : Nat} (h : (Token.backRef len dist).legal = true) :
    12 ≤ (Machine.tokenBits (.backRef len dist)).length ∧ (Machine.tokenBits (.backRef len dist)).length ≤ 31 := by
  obtain ⟨code, k, e, symbol, k', e', hlen, hdist⟩ := exists_match_rows h
  obtain ⟨hmin, hmax⟩ := lengthRow_width (lenLookup_eq_some.mp hlen).1
  obtain ⟨hmin', hmax'⟩ := distanceRow_width (distLookup_eq_some.mp hdist).1
  rw [tokenBits_backRef hlen hdist, List.length_append]
  omega

/-- Settles O19, from the rows of the lookups. -/
theorem elementWidths : Obligations.ElementWidths := by
  refine ⟨rfl, rfl, fun _ => rfl, fun _ => rfl, fun _ _ _ _ h => lengthElement_width h, fun dist symbol k e h => ?_,
    fun _ _ h => backRef_width h⟩
  rw [List.length_append, msbBits_length, lsbBits_length, (distLookup_eq_some.mp h).1.extra, distExtraOf]

/-! Words of the table, and patterns CORE never emits. -/

/-- Settles O11: each word is read bit by bit. -/
theorem tableWordsDecode : Obligations.TableWordsDecode :=
  ⟨rfl, rfl, rfl, rfl, rfl, rfl, rfl, rfl, rfl, rfl, rfl, rfl⟩

theorem decodeLitLen_unused {n : Nat} (hn : n = 286 ∨ n = 287) (rest : List Bool) :
    decode .litLen (msbBits 8 (0xC0 + (n - 280)) ++ rest) = .error (.unusedLengthSymbol n) := by
  rw [decode, decodeLitLen_code8 (by omega) (by omega), if_neg (by omega), Nat.add_sub_cancel_left,
    Nat.add_sub_cancel' (by omega)]
  rcases hn with rfl | rfl <;> rfl

theorem decodeDistance_unused {n : Nat} (hn : n = 30 ∨ n = 31) (rest : List Bool) :
    decode .dist (msbBits 5 n ++ rest) = .error (.unusedDistanceCode n) := by
  rw [decode, decodeDistance_code (by omega)]
  rcases hn with rfl | rfl <;> rfl

/-- No length has the pattern of code 284 with extra value 31: 258 is code 285 (R87, R122). -/
theorem lenLookup_ne_284_31 (len : Nat) : lenLookup len ≠ some (284, 5, 31) := by
  intro h
  obtain ⟨-, hmost, -⟩ := lenLookup_eq_some.mp h
  exact absurd (hmost rfl) (by decide)

/-- Settles O14: each pattern is refused where its code or tag is read, and code 284 with 31 where it would be written. -/
theorem neverEmittedPatternsRejected : Obligations.NeverEmittedPatternsRejected :=
  ⟨fun _ _ _ => rfl, fun _ => rfl, fun _ => rfl, fun _ => rfl, fun _ rest hn => decodeLitLen_unused hn rest,
    fun _ rest hn => decodeDistance_unused hn rest, fun _ htag hne => decodeTokenWord_illegal htag hne,
    fun rest => decode_length (i := .len284 31) rfl rest, lenLookup_ne_284_31, fun _ => rfl⟩

/-! The stream read back (R88). -/

/-- A literal is read back in its row of 8 or of 9 bits (R76, R77). -/
theorem exists_literal_element (b : Byte) :
    ∃ i : Instr, (i.shape = .literal8 b ∨ i.shape = .literal9 b) ∧
      ∀ rest, decode .litLen (Machine.tokenBits (.literal b) ++ rest) = .ok (i, rest) := by
  rw [tokenBits_literal]
  split
  · rename_i hb
    exact ⟨.lit8 b, .inl rfl, decode_literal8 hb⟩
  · exact ⟨.lit9 b, .inr rfl, decode_literal9 (by omega)⟩

/-- One token of the stream read back is one token of the replay (R37, R88). -/
theorem inflateElements_token {tok : Token} {o o' : List Byte} (hlegal : tok.legal = true)
    (hreplay : replayToken o tok = some o') (fuel : Nat) (rest : List Bool) :
    inflateElements (fuel + 1) (Machine.tokenBits tok ++ rest) o = inflateElements fuel rest o' := by
  cases tok with
  | literal b =>
    cases hreplay
    obtain ⟨i, hshape | hshape, hdecode⟩ := exists_literal_element b
    · simp only [inflateElements, hdecode, hshape]
    · simp only [inflateElements, hdecode, hshape]
  | backRef len dist =>
    obtain ⟨code, k, e, symbol, k', e', hlen, hdist⟩ := exists_match_rows hlegal
    obtain ⟨hrow, -, rfl⟩ := lenLookup_eq_some.mp hlen
    obtain ⟨hrow', rfl⟩ := distLookup_eq_some.mp hdist
    obtain ⟨i, hi⟩ := exists_shape_length hrow
    obtain ⟨j, hj⟩ := exists_shape_distance hrow'
    have hcopy : copyBack o (lenBaseOf code + e) (distBaseOf symbol + e') = some o' := hreplay
    rw [tokenBits_backRef hlen hdist, ← encodeBits_length hi, ← encodeBits_distance hj, List.append_assoc]
    simp only [inflateElements, decode_length hi, hi, decode_distance hj, hj, hcopy]

/-- The tokens of a stream and its `EOB` are read back as their replay. -/
theorem inflateElements_tokens {ts : List Token} {o S : List Byte} (hlegal : ∀ t ∈ ts, t.legal = true)
    (hreplay : replayFrom o ts = some S) {fuel : Nat} (hfuel : ts.length < fuel) (rest : List Bool) :
    inflateElements fuel (ts.flatMap Machine.tokenBits ++ (List.replicate 7 false ++ rest)) o = .ok (S, rest) := by
  induction ts generalizing o fuel with
  | nil =>
    cases hreplay
    obtain ⟨fuel, rfl⟩ := Nat.exists_eq_succ_of_ne_zero (Nat.ne_of_gt hfuel)
    rfl
  | cons tok ts ih =>
    obtain ⟨fuel, rfl⟩ := Nat.exists_eq_succ_of_ne_zero (Nat.ne_of_gt (Nat.zero_lt_of_lt hfuel))
    obtain ⟨o', htok, hrest⟩ := Option.bind_eq_some_iff.mp hreplay
    rw [List.flatMap_cons, List.append_assoc, inflateElements_token (hlegal tok List.mem_cons_self) htok]
    exact ih (fun t ht => hlegal t (List.mem_cons_of_mem _ ht)) hrest (Nat.lt_of_succ_lt_succ hfuel)

theorem tokenBits_length_pos {tok : Token} (h : tok.legal = true) : 1 ≤ (Machine.tokenBits tok).length := by
  cases tok with
  | literal b =>
    rw [tokenBits_literal]
    split <;> simp
  | backRef len dist =>
    have := (backRef_width h).1
    omega

theorem length_le_flatMap_tokenBits {ts : List Token} (h : ∀ t ∈ ts, t.legal = true) :
    ts.length ≤ (ts.flatMap Machine.tokenBits).length := by
  induction ts with
  | nil => exact Nat.le_refl _
  | cons tok ts ih =>
    have htok := tokenBits_length_pos (h tok List.mem_cons_self)
    have hrest := ih fun t ht => h t (List.mem_cons_of_mem _ ht)
    simp only [List.flatMap_cons, List.length_append, List.length_cons]
    omega

/-- Settles O50: after the header the elements are read back token by token, and every token has a bit for its fuel. -/
theorem inflateInvertsTheBlock : Obligations.InflateInvertsTheBlock := by
  intro ts S hlegal hreplay
  have hbits : Machine.blockBits ts =
      [true, true, false] ++ (ts.flatMap Machine.tokenBits ++
        (List.replicate 7 false ++ padBits (Machine.blockBody ts).length)) := by
    simp [Machine.blockBits, Machine.blockBody]
  have hfuel : ts.length < (Machine.blockBits ts).length + 1 := by
    have := length_le_flatMap_tokenBits hlegal
    rw [hbits]
    simp only [List.length_append]
    omega
  have hheader : decode .header (Machine.blockBits ts) = .ok (.hdr, ts.flatMap Machine.tokenBits ++
      (List.replicate 7 false ++ padBits (Machine.blockBody ts).length)) := by
    rw [hbits]
    rfl
  simp only [inflate, hheader]
  exact inflateElements_tokens hlegal hreplay hfuel _

end Sys2Proof
end

section
/-! The elements of a match (R145 to R149): the bit writer appends the bits of a field to the stream (R134), so a length and
a distance element append their code and their extra field, and a match token runs the two. -/

namespace Sys2Proof.Machine

/-! The stream. -/

theorem bitsOfBytes_append (xs ys : List Byte) : bitsOfBytes (xs ++ ys) = bitsOfBytes xs ++ bitsOfBytes ys :=
  List.flatMap_append

/-- A byte that leaves `acc` stays in the stream (R132, R134). -/
theorem emitByte_stream {s : State} (h : 8 ≤ s.nbits) : (emitByte s).stream = s.stream := by
  have hbytes : (emitByte s).outBytes = s.outBytes ++ [s.acc.extractLsb' 0 8] := by
    have hkept : ∀ i ∈ List.range s.outLen,
        (Memory.read (Memory.write s.out s.outLen (s.acc.extractLsb' 0 8)) i).getD 0 =
          (Memory.read s.out i).getD 0 := fun i hi => by
      rw [Memory.read_write_ne _ _ _ _ (Nat.ne_of_lt (List.mem_range.mp hi))]
    simp only [State.outBytes, emitByte_outLen, emitByte_out, List.range_succ, List.map_append, List.map_cons,
      List.map_nil, Memory.read_write_self, Option.getD_some, List.map_congr_left hkept]
  have hbyte : byteBits (s.acc.extractLsb' 0 8) = lsbBits 8 s.acc.toNat :=
    lsbBits_congr 8 _ _ fun k hk => by
      rw [BitVec.extractLsb'_toNat, Nat.shiftRight_zero, Nat.testBit_mod_two_pow, decide_eq_true hk, Bool.true_and]
  have hacc : lsbBits s.nbits s.acc.toNat = lsbBits 8 s.acc.toNat ++ lsbBits (s.nbits - 8) (s.acc >>> 8).toNat := by
    rw [← Nat.add_sub_cancel' h, lsbBits_add, BitVec.toNat_ushiftRight, Nat.shiftRight_eq_div_pow,
      Nat.add_sub_cancel_left]
  rw [State.stream, State.stream, hbytes, bitsOfBytes_append, emitByte_acc, emitByte_nbits, hacc, ← hbyte]
  simp [bitsOfBytes]

theorem drain_stream {r : Nat} {s : State} (h : 8 * r ≤ s.nbits) : (drain r s).stream = s.stream := by
  induction r generalizing s with
  | zero => rfl
  | succ r ih =>
    rw [drain, ih (by rw [emitByte_nbits]; omega), emitByte_stream (by omega)]

/-- The bits above `nbits` stay clear while `PACK` stores bytes, whatever `OUT` holds (R130, R132). -/
theorem drain_clean {r : Nat} {s : State} (hclean : s.acc.toNat < 2 ^ s.nbits) (h : 8 * r ≤ s.nbits) :
    (drain r s).acc.toNat < 2 ^ (drain r s).nbits := by
  induction r generalizing s with
  | zero => exact hclean
  | succ r ih =>
    have hempty : FilledTo ([] : List Host.Cell) 0 := ⟨rfl, fun _ => rfl⟩
    have hbyte := emitByte_draining (s := { s with out := [], outLen := 0 }) ⟨hclean, hempty⟩ (by dsimp only; omega)
    exact ih hbyte.clean (by rw [emitByte_nbits]; omega)

/-- A field of `n` bits, put above the `b` pending bits, comes after them in the stream (R132). -/
theorem lsbBits_append_field {acc : BitVec 32} {b v n : Nat} (hacc : acc.toNat < 2 ^ b) (hv : v < 2 ^ n)
    (hwidth : b + n ≤ 32) :
    lsbBits (b + n) (acc ||| (BitVec.ofNat 32 v <<< b)).toNat = lsbBits b acc.toNat ++ lsbBits n v := by
  have hfits : v <<< b < 2 ^ 32 := by
    rw [Nat.shiftLeft_eq, Nat.mul_comm]
    calc 2 ^ b * v < 2 ^ b * 2 ^ n := Nat.mul_lt_mul_of_pos_left hv (Nat.two_pow_pos b)
      _ = 2 ^ (b + n) := (Nat.pow_add 2 b n).symm
      _ ≤ 2 ^ 32 := Nat.pow_le_pow_right (by decide) hwidth
  have hv32 : v < 2 ^ 32 := hv.trans_le (Nat.pow_le_pow_right (by decide) (by omega))
  have hsum : (acc ||| (BitVec.ofNat 32 v <<< b)).toNat = 2 ^ b * v + acc.toNat := by
    rw [BitVec.toNat_or, BitVec.toNat_shiftLeft, BitVec.toNat_ofNat, Nat.mod_eq_of_lt hv32, Nat.mod_eq_of_lt hfits,
      Nat.or_comm, ← Nat.shiftLeft_add_eq_or_of_lt hacc, Nat.shiftLeft_eq, Nat.mul_comm]
  have hlow : lsbBits b (2 ^ b * v + acc.toNat) = lsbBits b acc.toNat :=
    lsbBits_congr b _ _ fun k hk => by rw [Nat.testBit_two_pow_mul_add v hacc, if_pos hk]
  have hhigh : (2 ^ b * v + acc.toNat) / 2 ^ b = v := by
    rw [Nat.mul_add_div (Nat.two_pow_pos b), Nat.div_eq_of_lt hacc, Nat.add_zero]
  rw [hsum, lsbBits_add, hlow, hhigh]

/-- `PACK` appends the `n` bits of `v`, least significant first (R134). -/
theorem appendField_appends {v n : Nat} {s : State} (hinv : BitWriterInv s) (hn : n ≤ 16) (hv : v < 2 ^ n) :
    Appends s (appendField v n s) (lsbBits n v) where
  stream := by
    have hpending := hinv.pending
    rw [appendField, drain_stream (by dsimp only; omega), State.stream, State.stream, List.append_assoc,
      ← lsbBits_append_field hinv.clean hv (by omega)]
    rfl
  inv := ⟨by rw [appendField_nbits]; omega, drain_clean (append_clean hinv.clean hv) (by dsimp only; omega)⟩
  outLen := by simp
  nbits := by simp
  bytes a ha := appendField_read v n s a (by simpa using ha)
  rest := appendField_rest v n s

/-! Appends in sequence. -/

theorem Appends.refl {s : State} (h : BitWriterInv s) : Appends s s [] where
  stream := by simp
  inv := h
  outLen := by have := h.pending; simp; omega
  nbits := by have := h.pending; simp; omega
  bytes _ _ := rfl
  rest := rfl

theorem Appends.trans {s t u : State} {xs ys : List Bool} (h : Appends s t xs) (h' : Appends t u ys) :
    Appends s u (xs ++ ys) where
  stream := by rw [h'.stream, h.stream, List.append_assoc]
  inv := h'.inv
  outLen := by
    rw [h'.outLen, h.outLen, h.nbits, List.length_append]
    omega
  nbits := by
    rw [h'.nbits, h.nbits, List.length_append]
    omega
  bytes a ha := by
    have hlen := h.outLen
    have hnbits := h.nbits
    rw [List.length_append] at ha
    rw [h'.bytes a (by omega), h.bytes a (by omega)]
  rest := by
    have h2 := h'.rest
    rw [h.rest] at h2
    exact h2

/-- `distDue` is no part of the stream. -/
theorem Appends.distDue {s t : State} {bits : List Bool} (h : Appends s t bits) (b : Bool) :
    Appends { s with distDue := b } { t with distDue := b } bits where
  stream := h.stream
  inv := ⟨h.inv.pending, h.inv.clean⟩
  outLen := h.outLen
  nbits := h.nbits
  bytes := h.bytes
  rest := by rw [h.rest]

theorem WriterReady.mono {P : Config.Params} {s : State} {m n : Nat} (h : WriterReady P s n) (hmn : m ≤ n) :
    WriterReady P s m := ⟨h.inv, h.notFlushed, by have := h.room; omega⟩

/-- What is left of the room after an append (R134). -/
theorem WriterReady.after {P : Config.Params} {s t : State} {bits : List Bool} {n : Nat}
    (h : WriterReady P s (bits.length + n)) (happ : Appends s t bits) : WriterReady P t n where
  inv := happ.inv
  notFlushed := by rw [happ.rest]; exact h.notFlushed
  room := by
    have hroom := h.room
    rw [happ.outLen, happ.nbits]
    omega

/-- An operation that goes on and appends the bits, wherever the writer has room for them. -/
def Writes (P : Config.Params) (g : State → Flow) (bits : List Bool) : Prop :=
  ∀ s, WriterReady P s bits.length → ∃ t, g s = .running t ∧ Appends s t bits

theorem Writes.andThen {P : Config.Params} {f g : State → Flow} {xs ys : List Bool} (hf : Writes P f xs)
    (hg : Writes P g ys) : Writes P (fun s => (f s).andThen g) (xs ++ ys) := by
  intro s h
  rw [List.length_append] at h
  obtain ⟨t, hft, hxs⟩ := hf s (h.mono (by omega))
  obtain ⟨u, hgu, hys⟩ := hg t (h.after hxs)
  exact ⟨u, by simp only [hft, Flow.running_andThen, hgu], hxs.trans hys⟩

theorem pack_writes {P : Config.Params} {v n : Nat} (hn : n ≤ 16) (hv : v < 2 ^ n) :
    Writes P (pack P v n) (lsbBits n v) := by
  intro s h
  rw [lsbBits_length] at h
  have hroom := h.room
  rcases pack_cases P v n s with ⟨-, hbad | hbad | hbad⟩ | ⟨-, hfull⟩ | ⟨hpack, -⟩
  · rw [h.notFlushed] at hbad; cases hbad
  · omega
  · omega
  · omega
  · exact ⟨_, hpack, appendField_appends h.inv hn hv⟩

/-- `PACK_CODE` appends the bits of the code, most significant first (R142). -/
theorem packCode_writes {P : Config.Params} {c n : Nat} (hn : n ≤ 16) : Writes P (packCode P c n) (msbBits n c) := by
  rw [← lsbBits_rev]
  exact pack_writes hn (rev_lt n c)

theorem packExtra_writes {P : Config.Params} {v n : Nat} (hn : n ≤ 16) (hv : v < 2 ^ n) :
    Writes P (packExtra P v n) (lsbBits n v) := by
  intro s h
  rw [packExtra]
  split
  · exact pack_writes hn hv s h
  · obtain rfl : n = 0 := by omega
    exact ⟨s, rfl, .refl h.inv⟩

/-! The two elements. -/

theorem lengthCodeBits_eq (code : Nat) : lengthCodeBits code = msbBits (lengthCode code).2 (lengthCode code).1 := by
  unfold lengthCodeBits lengthCode
  split <;> rfl

/-- An operation that appends, and then sets `distDue`. -/
theorem Writes.andThen_distDue {P : Config.Params} {f : State → Flow} {bits : List Bool} (hf : Writes P f bits)
    (b : Bool) {s : State} (h : WriterReady P s bits.length) :
    ∃ t, (f s).andThen (fun s => .running { s with distDue := b }) = .running t ∧
      Appends { s with distDue := b } t bits := by
  obtain ⟨t, hft, happ⟩ := hf s h
  exact ⟨{ t with distDue := b }, by rw [hft]; rfl, happ.distDue b⟩

/-- A length element appends its code and its extra field (R146, R147). -/
theorem encLength_writes {P : Config.Params} {code k e : Nat} (hrow : LengthRow code k e) {s : State}
    (h : WriterReady P s (lengthCodeBits code ++ lsbBits k e).length) :
    ∃ t, encLength P code e s = .running t ∧
      Appends { s with distDue := true } t (lengthCodeBits code ++ lsbBits k e) := by
  have hcode : (lengthCode code).2 ≤ 16 := by
    unfold lengthCode
    split <;> simp
  have hk := hrow.extra_le
  have hfits := hrow.fits
  rw [lengthCodeBits_eq] at h ⊢
  rw [hrow.extra] at h hk hfits ⊢
  exact ((packCode_writes hcode).andThen (packExtra_writes (by omega) hfits)).andThen_distDue true h

/-- A distance element appends its 5-bit code and its extra field (R148, R149). -/
theorem encDistance_writes {P : Config.Params} {symbol k e : Nat} (hrow : DistanceRow symbol k e) {s : State}
    (h : WriterReady P s (msbBits 5 symbol ++ lsbBits k e).length) :
    ∃ t, encDistance P symbol e s = .running t ∧
      Appends { s with distDue := false } t (msbBits 5 symbol ++ lsbBits k e) := by
  have hk := hrow.extra_le
  have hfits := hrow.fits
  rw [hrow.extra] at h hk hfits ⊢
  exact ((packCode_writes (by decide)).andThen (packExtra_writes (by omega) hfits)).andThen_distDue false h

/-- Only the pair of code 284 and 31 is ill-formed among the length elements (R87). -/
theorem wellFormed_length {i : Instr} {code k e : Nat} (h : i.shape = .length code k e) :
    i.wellFormed = true ↔ (code = 284 → e ≤ 30) := by
  simp only [Instr.wellFormed, h, decide_eq_true_eq]

/-- A well-formed length row runs its code and extra value (R146, R147). -/
theorem exec_length {i : Instr} {code k e : Nat} (h : i.shape = .length code k e) (hmost : code = 284 → e ≤ 30)
    (s : State) : exec i s = runLength code e s := by
  cases i
  case len284 x =>
    cases h
    exact if_pos (hmost rfl)
  case len257 | len258 | len259 | len260 | len261 | len262 | len263 | len264 | len265 | len266 |
      len267 | len268 | len269 | len270 | len271 | len272 | len273 | len274 | len275 | len276 |
      len277 | len278 | len279 | len280 | len281 | len282 | len283 | len285 =>
    cases h; rfl
  all_goals cases h

/-- A distance row runs its symbol and extra value (R148, R149). -/
theorem exec_distance {i : Instr} {symbol k e : Nat} (h : i.shape = .distance symbol k e) (s : State) :
    exec i s = runDistance symbol e s := by
  cases i
  case dist0 | dist1 | dist2 | dist3 | dist4 | dist5 | dist6 | dist7 | dist8 | dist9 | dist10 | dist11 | dist12 |
      dist13 | dist14 | dist15 | dist16 | dist17 | dist18 | dist19 | dist20 | dist21 | dist22 | dist23 | dist24 |
      dist25 | dist26 | dist27 | dist28 | dist29 =>
    cases h; rfl
  all_goals cases h

/-- Settles O25: the row's lookup, and the append of its code and of its extra field. -/
theorem lengthElementsWriteCodeAndExtra : Obligations.LengthElementsWriteCodeAndExtra := by
  intro s i code k e hshape hwf hat hready
  have hrow := lengthRow_of_shape hshape
  have hmost := (wellFormed_length hshape).mp hwf
  obtain ⟨t, hrun, happ⟩ := encLength_writes hrow hready
  refine ⟨lenLookup_eq_some.mpr ⟨hrow, hmost, rfl⟩, t, ?_, happ⟩
  rw [exec_length hshape hmost, runLength, hat, hrun]
  rfl

/-- Settles O26: the row's lookup, and the append of its code and of its extra field. -/
theorem distanceElementsWriteCodeAndExtra : Obligations.DistanceElementsWriteCodeAndExtra := by
  intro s i symbol k e hshape hat hready
  have hrow := distanceRow_of_shape hshape
  obtain ⟨t, hrun, happ⟩ := encDistance_writes (P := Config.params) (s := s) hrow (by simpa using hready)
  refine ⟨distLookup_eq_some.mpr ⟨hrow, rfl⟩, t, ?_, happ⟩
  rw [exec_distance hshape, runDistance, hat, hrun]
  rfl

/-! A match token. -/

/-- `t` differs from `s` in the stream's own registers and bytes alone. -/
def OnlyStream (s t : State) : Prop := t = { s with acc := t.acc, nbits := t.nbits, out := t.out, outLen := t.outLen }

theorem OnlyStream.trans {s t u : State} (h : OnlyStream s t) (h' : OnlyStream t u) : OnlyStream s u := by
  have h2 : u = _ := h'
  rw [h] at h2
  exact h2

theorem pack_onlyStream {P : Config.Params} {v n : Nat} {s t : State} (h : pack P v n s = .running t) :
    OnlyStream s t := by
  rcases pack_cases P v n s with ⟨hp, -⟩ | ⟨hp, -⟩ | ⟨hp, -⟩ <;> rw [hp] at h <;> cases h
  exact appendField_rest v n s

theorem packExtra_onlyStream {P : Config.Params} {v n : Nat} {s t : State} (h : packExtra P v n s = .running t) :
    OnlyStream s t := by
  unfold packExtra at h
  split at h
  · exact pack_onlyStream h
  · cases h; rfl

/-- A code and an extra field that go on, and then `distDue` (R146 to R149). -/
theorem element_onlyStream {P : Config.Params} {c n v m : Nat} {b : Bool} {s t : State}
    (h : ((packCode P c n s).andThen (packExtra P v m)).andThen
      (fun s => .running { s with distDue := b }) = .running t) : OnlyStream { s with distDue := b } t := by
  obtain ⟨w, hfields, hdue⟩ := (Flow.andThen_eq_running _ _ _).mp h
  obtain ⟨u, hcode, hextra⟩ := (Flow.andThen_eq_running _ _ _).mp hfields
  have hw : OnlyStream s w := (pack_onlyStream hcode).trans (packExtra_onlyStream hextra)
  cases hdue
  rw [hw]
  rfl

/-- `ENC_MATCH` that goes on is a length element and then a distance element, those of the lookups (R145). -/
theorem encMatch_running {P : Config.Params} {len dist : Nat} {s v : State}
    (h : encMatch P len dist s = some (.running v)) :
    ∃ code k e symbol k' e' u, lenLookup len = some (code, k, e) ∧ distLookup dist = some (symbol, k', e') ∧
      encLength P code e s = .running u ∧ encDistance P symbol e' u = .running v := by
  unfold encMatch at h
  split at h
  · rename_i code k e symbol k' e' hlen hdist
    obtain ⟨u, hlength, hdistance⟩ := (Flow.andThen_eq_running _ _ _).mp (Option.some.inj h)
    exact ⟨code, k, e, symbol, k', e', u, hlen, hdist, hlength, hdistance⟩
  · cases h

/-- A match token that ends without a fault is `ENC_MATCH` that went on, and the end of the token (R140, R186). -/
theorem exec_tokMatch_running {l : BitVec 8} {d : BitVec 15} {s t : State} (h : exec (.tokMatch l d) s = .next t)
    (hphase : t.phase ≠ .error) :
    ∃ v, encMatch Config.params (tokenLength l) (tokenDistance d) s = some (.running v) ∧
      t = { v with tk := v.tk + 1, encStage := stageAfter (v.tk + 1) v.ntok } := by
  simp only [exec, execTokMatch] at h
  split at h
  · rename_i f hf
    obtain ⟨-, rfl⟩ := (whenEnabled_eq_next _ _ _).mp h
    cases f with
    | running v => exact ⟨v, hf, rfl⟩
    | stopped v => exact absurd ((encMatch_frame _ _ _ s _ hf).stopped v rfl).1 hphase
  · cases h

/-- Settles O29: the two elements run from the states between them, and the encoder is at the distance element there. -/
theorem matchTokenRunsItsTwoElements : Obligations.MatchTokenRunsItsTwoElements := by
  intro s l d t hat hrun hphase
  obtain ⟨v, hmatch, rfl⟩ := exec_tokMatch_running hrun hphase
  obtain ⟨code, k, e, symbol, k', e', u, hlen, hdist, hlength, hdistance⟩ := encMatch_running hmatch
  obtain ⟨hrow, hmost, -⟩ := lenLookup_eq_some.mp hlen
  obtain ⟨i, hi⟩ := exists_shape_length hrow
  obtain ⟨j, hj⟩ := exists_shape_distance (distLookup_eq_some.mp hdist).1
  have hu : OnlyStream { s with distDue := true } u := element_onlyStream hlength
  have hv : OnlyStream { u with distDue := false } v := element_onlyStream hdistance
  obtain ⟨hplace, -⟩ : (s.phase = .encoding ∧ s.encStage = .tokens) ∧ s.distDue = false := by
    simpa [atLitLen] using hat
  have hat' : atDistance u = true := by
    rw [hu]
    simpa [atDistance] using hplace
  have htk : v.tk = s.tk := by rw [hv, hu]
  have hntok : v.ntok = s.ntok := by rw [hv, hu]
  refine ⟨i, j, u, v, code, k, e, symbol, k', e', hlen, hi, hdist, hj, ?_, ?_, ?_⟩
  · rw [exec_length hi hmost, runLength, hat, hlength]
    rfl
  · rw [exec_distance hj, runDistance, hat', hdistance]
    rfl
  · rw [stageAfter, htk, hntok]

end Sys2Proof.Machine
end

section
/-! `MATCH_STEP` where it goes on: one insertion (R108), the step with fewer than 3 bytes left (R103, R111), and,
with the input loaded and the chains causal, every step (R114). -/

namespace Sys2Proof.Machine

section
variable {P : Config.Params} {s t : State}

/-! One insertion. -/

/-- An insertion with its hash at hand (R108). -/
theorem insertAt_of_hash {pos : Nat} {hh : BitVec 15} (hin : pos + 3 ≤ s.size) (hroom : pos < P.nMax)
    (hhash : hash3 P s pos = .ok hh) :
    insertAt P pos s = .ok { s with
      scratch := { s.scratch with h := hh }
      prev := Memory.write s.prev pos (readHead s hh)
      head := Memory.write s.head hh.toNat pos } := by
  rw [insertAt, if_pos hin, if_pos hroom, hhash]
  rfl

/-- The last two positions are not inserted (R108). -/
theorem insertAt_tail {pos : Nat} (hout : s.size < pos + 3) : insertAt P pos s = .ok s := by
  rw [insertAt, if_neg (Nat.not_le.mpr hout)]

/-- Settles O40: the link is written at `pos` alone and the head of its hash alone. -/
theorem insertLinksToTheOldHead : Obligations.InsertLinksToTheOldHead := by
  intro P s pos b0 b1 b2 hroom
  refine ⟨fun hin h0 h1 h2 => ?_, insertAt_tail⟩
  have hhash : hash3 P s pos = .ok (P.hash b0 b1 b2) :=
    (hash3_eq_ok P s pos _).mpr ⟨b0, b1, b2, (readIn_eq_ok _ _ _).mpr ⟨by omega, h0⟩,
      (readIn_eq_ok _ _ _).mpr ⟨by omega, h1⟩, (readIn_eq_ok _ _ _).mpr ⟨by omega, h2⟩, rfl⟩
  refine ⟨_, insertAt_of_hash hin hroom hhash, Memory.read_write_self _ _ _, ?_,
    fun q hq => Memory.read_write_ne _ _ _ _ hq, fun h hne => ?_, rfl⟩
  · rw [readHead_of_write rfl, if_pos rfl]
  · rw [readHead_of_write rfl, if_neg hne]

/-! The last two bytes of the input. -/

/-- The state with no match found at `p` (R106). -/
def State.noMatch (s : State) : State := { s with scratch := { s.scratch with bestLen := 0, bestDist := 0 } }

/-- No search is made where fewer than 3 bytes remain (R103). -/
theorem search_tail (hout : s.size < s.p + 3) : search P s = .ok s.noMatch := by
  rw [search, if_neg (Nat.not_le.mpr hout)]
  rfl

/-- With no match of length 3 the token is the literal (R107). -/
theorem chooseToken_literal {b : Byte} (hlen : s.scratch.bestLen.toNat < Config.minMatch) (hb : readIn s s.p = .ok b) :
    chooseToken s = .ok (.literal b) := by
  rw [chooseToken, if_neg (Nat.not_le.mpr hlen), hb]
  rfl

/-- Settles O39: no search, the literal, and the one position it covers is not inserted. -/
theorem shortTailIsEmittedAsLiterals : Obligations.ShortTailIsEmittedAsLiterals := by
  intro P s b hlt htail hb hroom
  have hchoose : chooseToken s.noMatch = .ok (.literal b) :=
    chooseToken_literal (Nat.zero_lt_succ 2) ((readIn_eq_ok s s.p b).mpr ⟨hlt, hb⟩)
  have hinsert : insertFrom P 1 s.p (appendToken (.literal b) s.noMatch) = .ok (appendToken (.literal b) s.noMatch) :=
    (bind_eq_ok _ _ _).mpr ⟨_, insertAt_tail htail, rfl⟩
  refine ⟨{ appendToken (.literal b) s.noMatch with p := s.p + 1 }, ?_, Memory.read_write_self _ _ _,
    fun i hi => Memory.read_write_ne _ _ _ _ hi, rfl, rfl, rfl⟩
  refine (bind_eq_ok _ _ _).mpr ⟨_, search_tail htail, (bind_eq_ok _ _ _).mpr ⟨_, hchoose, ?_⟩⟩
  rw [if_pos (show s.noMatch.ntok < Config.tokCapacity P from hroom)]
  exact (bind_eq_ok _ _ _).mpr ⟨_, hinsert, rfl⟩

/-! Every step goes on. -/

/-- What a `MATCH_STEP` needs: the bounds of R116, causal chains (R115) and the input in `IN`. -/
structure MatcherReady (P : Config.Params) (s : State) : Prop where
  cursor : s.p ≤ s.size
  size : s.size ≤ P.nMax
  tokens : s.ntok ≤ s.p
  chains : ChainsCausalTo s s.p
  loaded : Loaded s

/-- The machine's invariant and a loaded input are enough. -/
theorem Inv.matcherReady (h : Inv P s) (hloaded : Loaded s) : MatcherReady P s :=
  ⟨h.control.cursor, h.control.size, h.control.tokens, (chainInv_iff s).mp h.chains, hloaded⟩

theorem Loaded.congr (h : Loaded s) (hin : t.input = s.input) (hsize : t.size = s.size) : Loaded t :=
  fun i hi => by rw [hin]; exact h i (hsize ▸ hi)

/-- Below `size` a loaded input is read as it stands (R51). -/
theorem Loaded.readIn_eq (h : Loaded s) {i : Nat} (hi : i < s.size) : readIn s i = .ok (byteAt s i) := by
  obtain ⟨b, hb⟩ := Option.isSome_iff_exists.mp (h i hi)
  simp [readIn_eq_ok, byteAt, hi, hb]

theorem Loaded.hash3_eq (h : Loaded s) {q : Nat} (hq : q + 3 ≤ s.size) : hash3 P s q = .ok (hashAt P s q) :=
  (hash3_eq_ok P s q _).mpr
    ⟨_, _, _, h.readIn_eq (by omega), h.readIn_eq (by omega), h.readIn_eq (by omega), rfl⟩

theorem Loaded.cmpLenFrom_goes_on (h : Loaded s) {m p fuel k : Nat} (hm : m + k + fuel ≤ s.size)
    (hp : p + k + fuel ≤ s.size) : ∃ r, cmpLenFrom s m p fuel k = .ok r := by
  induction fuel generalizing k with
  | zero => exact ⟨k, rfl⟩
  | succ fuel ih =>
    simp only [cmpLenFrom, bind_eq_ok, h.readIn_eq (show m + k < s.size by omega),
      h.readIn_eq (show p + k < s.size by omega), Except.ok.injEq, exists_eq_left']
    split
    · exact ih (by omega) (by omega)
    · exact ⟨k, rfl⟩

theorem Loaded.examine_goes_on (h : Loaded s) {p cap m : Nat} (hm : m < p) (hcap : p + cap ≤ s.size) (w : Walk) :
    ∃ v, examine s p cap m w = .ok v := by
  obtain ⟨k, hk⟩ := h.cmpLenFrom_goes_on (m := m) (p := p) (fuel := cap) (k := 0) (by omega) (by omega)
  unfold examine
  dsimp only
  split
  · exact ⟨_, rfl⟩
  · rw [cmpLen, hk]
    exact ⟨_, rfl⟩

/-- The walk goes on from an inserted position, or from none: each link is there and leads to one (R115). -/
theorem MatcherReady.walk_goes_on (h : MatcherReady P s) {cap fuel : Nat} (hcap : s.p + cap ≤ s.size) {w : Walk}
    (hw : ∀ m, w.m = some m → m < s.p ∧ m + 3 ≤ s.size) : ∃ v, walk P s s.p cap fuel w = .ok v := by
  induction fuel generalizing w with
  | zero => exact ⟨w, rfl⟩
  | succ fuel ih =>
    unfold walk
    split
    · exact ⟨w, rfl⟩
    · rename_i m hm
      obtain ⟨hlt, hin⟩ := hw m hm
      obtain ⟨u, hu⟩ := h.loaded.examine_goes_on hlt hcap w
      obtain ⟨next, hnext⟩ := Option.isSome_iff_exists.mp (h.chains.inserted m hlt hin)
      have hroom : m < P.nMax := by have := h.size; omega
      obtain ⟨-, -, hless⟩ := h.chains.prev m next hnext
      have hlink : ∀ r, next = some r → r < s.p ∧ r + 3 ≤ s.size := fun r hr => by
        have := hless r hr
        omega
      obtain ⟨v, hv⟩ := ih (w := { u with m := next }) hlink
      exact ⟨v, (bind_eq_ok _ _ _).mpr ⟨u, hu, (bind_eq_ok _ _ _).mpr
        ⟨next, (readPrev_eq_ok P s m next).mpr ⟨hroom, hnext⟩, hv⟩⟩⟩

theorem MatcherReady.search_goes_on (h : MatcherReady P s) : ∃ t, search P s = .ok t := by
  unfold search
  split
  · rename_i hin
    have hcap : searchCap s ≤ s.size - s.p := Nat.min_le_right _ _
    obtain ⟨w, hw⟩ := h.walk_goes_on (cap := searchCap s) (fuel := Config.maxChain)
      (w := searchEntry s (hashAt P s s.p)) (by omega) (fun m hm => h.chains.head _ m hm)
    exact ⟨_, (bind_eq_ok _ _ _).mpr ⟨_, h.loaded.hash3_eq hin, (bind_eq_ok _ _ _).mpr ⟨w, hw, rfl⟩⟩⟩
  · exact ⟨_, rfl⟩

theorem Loaded.chooseToken_goes_on (h : Loaded s) (hlt : s.p < s.size) : ∃ tok, chooseToken s = .ok tok := by
  unfold chooseToken
  split
  · exact ⟨_, rfl⟩
  · rw [h.readIn_eq hlt]
    exact ⟨_, rfl⟩

theorem Loaded.insertAt_goes_on (h : Loaded s) (hsize : s.size ≤ P.nMax) (pos : Nat) :
    ∃ t, insertAt P pos s = .ok t := by
  by_cases hin : pos + 3 ≤ s.size
  · exact ⟨_, insertAt_of_hash hin (by omega) (h.hash3_eq hin)⟩
  · exact ⟨s, insertAt_tail (by omega)⟩

theorem Loaded.insertFrom_goes_on (h : Loaded s) (hsize : s.size ≤ P.nMax) (n pos : Nat) :
    ∃ t, insertFrom P n pos s = .ok t := by
  induction n generalizing s pos with
  | zero => exact ⟨s, rfl⟩
  | succ n ih =>
    obtain ⟨u, hu⟩ := h.insertAt_goes_on hsize pos
    have hrest := insertAt_rest P pos s u hu
    have hloaded : Loaded u := h.congr (by rw [hrest]) (by rw [hrest])
    obtain ⟨t, ht⟩ := ih hloaded (by rw [hrest]; exact hsize) (pos + 1)
    exact ⟨t, (bind_eq_ok _ _ _).mpr ⟨u, hu, ht⟩⟩

/-- The step goes on: it emits the token its search chose (R101). -/
theorem MatcherReady.matchStep_goes_on (h : MatcherReady P s) (hlt : s.p < s.size) :
    ∃ t tok s1, matchStep P s = .ok t ∧ search P s = .ok s1 ∧ chooseToken s1 = .ok tok ∧ Emits P s t tok := by
  obtain ⟨s1, hsearch⟩ := h.search_goes_on
  have hs1 := search_rest P s s1 hsearch
  have hsize1 : s1.size = s.size := by rw [hs1]
  have hloaded1 : Loaded s1 := h.loaded.congr (by rw [hs1]) hsize1
  obtain ⟨tok, hchoose⟩ := hloaded1.chooseToken_goes_on (by rw [hs1]; exact hlt)
  have hloaded2 : Loaded (appendToken tok s1) := hloaded1.congr rfl rfl
  obtain ⟨s2, hins⟩ := hloaded2.insertFrom_goes_on (P := P) (hsize1 ▸ h.size) (covers tok) s.p
  have hs2 := insertFrom_rest P _ _ _ _ hins
  have hroom : s1.ntok < Config.tokCapacity P := by
    have hsize : s.size ≤ Config.tokCapacity P := h.size
    have htokens := h.tokens
    have : s1.ntok = s.ntok := by rw [hs1]
    omega
  have hp1 : s1.p = s.p := by rw [hs1]
  have hp2 : s2.p = s.p := by rw [hs2]; exact hp1
  refine ⟨{ s2 with p := s.p + covers tok }, tok, s1, ?_, hsearch, hchoose, chooseToken_fits hsearch hchoose,
    ⟨s1, s2, hs1, hins, rfl⟩, ?_⟩
  · refine (bind_eq_ok _ _ _).mpr ⟨s1, hsearch, (bind_eq_ok _ _ _).mpr ⟨tok, hchoose, ?_⟩⟩
    rw [if_pos hroom, hp1]
    exact (bind_eq_ok _ _ _).mpr ⟨s2, hins, by rw [hp2]⟩
  · rw [hs2, hs1]
    rfl

/-! The token. -/

/-- Bytes that are read as equal are equal in `IN`. -/
theorem byteAt_of_readIn {i : Nat} {b : Byte} (h : readIn s i = .ok b) : byteAt s i = b := by
  obtain ⟨-, hb⟩ := (readIn_eq_ok s i b).mp h
  simp [byteAt, hb]

theorem SameBytes.byteAt_eq {a b n : Nat} (h : SameBytes s a b n) {i : Nat} (hi : i < n) :
    byteAt s (a + i) = byteAt s (b + i) := by
  obtain ⟨x, ha, hb⟩ := h i hi
  rw [byteAt_of_readIn ha, byteAt_of_readIn hb]

theorem Emits.read_tok {tok : Token} (h : Emits P s t tok) : Memory.read t.tok s.ntok = some tok.word := by
  rw [h.rest]
  exact Memory.read_write_self _ _ _

theorem Emits.p_eq {tok : Token} (h : Emits P s t tok) : t.p = s.p + covers tok := by rw [h.rest]

/-- The tokens go on replaying the input (R37, R114). -/
theorem Emits.replays {tok : Token} {ts : List Token} {bs bs' : List Byte} (h : Emits P s t tok)
    (hbs : s.inputTo s.p = some bs) (hreplay : replay ts = some bs) (hbs' : s.inputTo t.p = some bs') :
    replay (ts ++ [tok]) = some bs' := by
  obtain ⟨cs, htoken, hcs⟩ := h.fits.replay hbs
  rw [← h.p_eq, hbs'] at hcs
  cases hcs
  rw [replay, replayFrom_concat, ← replay, hreplay]
  exact htoken

/-- Settles O41: the step goes on, and the token it emits fits the input. -/
theorem matchStepEmitsAValidToken : Obligations.MatchStepEmitsAValidToken := by
  intro P s hinv hloaded hlt
  obtain ⟨t, tok, -, hrun, -, -, he⟩ := (hinv.matcherReady hloaded).matchStep_goes_on hlt
  obtain ⟨hpos, hend⟩ := he.fits.covers
  have hp := he.p_eq
  have hfits := he.fits
  refine ⟨t, tok, hrun, hfits.legal, he.read_tok, by rw [he.rest], hp, by omega, by omega, ?_, ?_, ?_, ?_⟩
  · rintro b rfl
    exact (byteAt_of_readIn hfits).symm
  · rintro len dist rfl
    obtain ⟨-, -, hcopy⟩ := hfits
    exact ⟨hcopy.back, fun i hi => hcopy.same.byteAt_eq hi⟩
  · intro ts bs bs' hts hbs hreplay hbs'
    exact ⟨he.tokens hts, he.replays hbs hreplay hbs'⟩
  · rw [he.rest]

end

end Sys2Proof.Machine
end

section
/-! The closed form of a step (R113): the walk finds the greatest agreement among the candidates it reaches, at the
nearest of them. -/

namespace Sys2Proof.Machine

section
variable {P : Config.Params} {s t : State}

/-! The chains. -/

/-- The head of a chain is a position that can be inserted and has the chain's hash; the rest is the chain below it. -/
theorem chainBelow_of_head {h : BitVec 15} {n m : Nat} (hm : (chainBelow P s h n).head? = some m) :
    m < n ∧ m + 3 ≤ s.size ∧ hashAt P s m = h ∧ chainBelow P s h n = m :: chainBelow P s h m := by
  induction n with
  | zero => cases hm
  | succ n ih =>
    rw [chainBelow] at hm ⊢
    split at hm
    · rename_i hin
      obtain ⟨hsize, hhash⟩ := hin
      cases hm
      exact ⟨Nat.lt_succ_self _, hsize, hhash, if_pos ⟨hsize, hhash⟩⟩
    · rename_i hout
      obtain ⟨hlt, hrest⟩ := ih hm
      rw [if_neg hout]
      exact ⟨by omega, hrest⟩

/-! Agreement. -/

/-- `CMPLEN` is the agreement (R105, R113). -/
theorem cmpLenFrom_eq {m p fuel k r : Nat} (h : cmpLenFrom s m p fuel k = .ok r) :
    r = k + commonPrefix s (m + k) (p + k) fuel := by
  induction fuel generalizing k with
  | zero => cases h; rfl
  | succ fuel ih =>
    simp only [cmpLenFrom, bind_eq_ok] at h
    obtain ⟨a, ha, b, hb, h⟩ := h
    rw [commonPrefix, byteAt_of_readIn ha, byteAt_of_readIn hb]
    split at h
    · rename_i hab
      rw [if_pos hab, ih h, ← Nat.add_assoc, ← Nat.add_assoc]
      omega
    · rename_i hab
      cases h
      rw [if_neg hab]
      rfl

/-- `lcp(q)` of R113 at the cursor. -/
def agreement (s : State) (q : Nat) : Nat := commonPrefix s q s.p (searchCap s)

theorem cmpLen_eq {m k : Nat} (h : cmpLen s m s.p (searchCap s) = .ok k) : k = agreement s m := by
  simpa [agreement] using cmpLenFrom_eq h

/-! The best match. -/

/-- `len` is the greatest agreement of the positions `C`, and `dist` leads to the greatest position that has it; `len`
is 0 where none agrees in a byte (R106, R113). -/
structure BestAmong (s : State) (C : List Nat) (len dist : Nat) : Prop where
  most : ∀ r ∈ C, agreement s r ≤ len
  reached : len = 0 ∨ ∃ q ∈ C, agreement s q = len ∧ dist = s.p - q ∧ ∀ r ∈ C, agreement s r = len → r ≤ q

/-- Whether a candidate is in the window (R104). -/
def inWindow (s : State) (q : Nat) : Bool := decide (s.p - q ≤ 32768)

/-- The candidates, by the model's name and by the window. -/
theorem candidates_eq (P : Config.Params) (s : State) :
    candidates P s = ((chainBelow P s (hashAt P s s.p) s.p).take Config.maxChain).filter (inWindow s) := rfl

/-- `BEST` with one more candidate, farther than all before it: it wins only by a greater agreement (R106). -/
theorem BestAmong.best {C : List Nat} {m : Nat} {w : Walk} (h : BestAmong s C w.bestLen w.bestDist)
    (hfar : ∀ q ∈ C, m < q) (hk : w.k = agreement s m) (hd : w.d.toNat = s.p - m) :
    BestAmong s (C ++ [m]) w.best.bestLen w.best.bestDist := by
  unfold Walk.best
  split
  · rename_i hlt
    refine ⟨fun r hr => ?_, .inr ⟨m, by simp, hk.symm, hd, fun r hr heq => ?_⟩⟩
    · rcases List.mem_append.mp hr with hr | hr
      · exact (h.most r hr).trans hlt.le
      · rw [List.mem_singleton.mp hr]
        exact hk.ge
    · rcases List.mem_append.mp hr with hr | hr
      · have := h.most r hr
        dsimp only at heq
        omega
      · exact (List.mem_singleton.mp hr).le
  · rename_i hle
    refine ⟨fun r hr => ?_, h.reached.imp_right ?_⟩
    · rcases List.mem_append.mp hr with hr | hr
      · exact h.most r hr
      · rw [List.mem_singleton.mp hr]
        omega
    · rintro ⟨q, hq, hlen, hdist, hnear⟩
      refine ⟨q, List.mem_append_left _ hq, hlen, hdist, fun r hr heq => ?_⟩
      rcases List.mem_append.mp hr with hr | hr
      · exact hnear r hr heq
      · rw [List.mem_singleton.mp hr]
        exact (hfar q hq).le

/-- One candidate examined: it counts where it is in the window (R104 to R106). -/
theorem examine_best {C : List Nat} {m : Nat} {w v : Walk} (h : BestAmong s C w.bestLen w.bestDist)
    (hfar : ∀ q ∈ C, m < q) (hm : m < s.p) (hrun : examine s s.p (searchCap s) m w = .ok v) :
    BestAmong s (C ++ [m].filter (inWindow s)) v.bestLen v.bestDist := by
  unfold examine at hrun
  dsimp only at hrun
  split at hrun
  · rename_i hout
    cases hrun
    have : inWindow s m = false := by simp only [inWindow, decide_eq_false_iff_not]; omega
    simpa [this] using h
  · rename_i hin
    simp only [bind_eq_ok, Except.ok.injEq] at hrun
    obtain ⟨k, hk, rfl⟩ := hrun
    have : inWindow s m = true := by simp only [inWindow, decide_eq_true_eq]; omega
    simp only [this, List.filter_cons_of_pos, List.filter_nil]
    exact BestAmong.best h hfar (cmpLen_eq hk) (by dsimp only; omega)

/-- The walk along what is left of a chain, below all positions examined so far (R110). -/
theorem walk_best (hs : ChainsExact P s) {h : BitVec 15} {n fuel : Nat} {C : List Nat} {w v : Walk}
    (hbest : BestAmong s C w.bestLen w.bestDist) (hn : n ≤ s.p) (hfar : ∀ q ∈ C, n ≤ q)
    (hm : w.m = (chainBelow P s h n).head?) (hrun : walk P s s.p (searchCap s) fuel w = .ok v) :
    BestAmong s (C ++ ((chainBelow P s h n).take fuel).filter (inWindow s)) v.bestLen v.bestDist := by
  induction fuel generalizing n C w with
  | zero => cases hrun; simpa using hbest
  | succ fuel ih =>
    unfold walk at hrun
    split at hrun
    · rename_i hnone
      cases hrun
      have : chainBelow P s h n = [] := List.head?_eq_none_iff.mp (hm.symm.trans hnone)
      simpa [this] using hbest
    · rename_i m hsome
      obtain ⟨hlt, hin, hhash, hchain⟩ := chainBelow_of_head (hm.symm.trans hsome)
      simp only [bind_eq_ok, readPrev_eq_ok] at hrun
      obtain ⟨u, hu, next, ⟨-, hnext⟩, hrun⟩ := hrun
      rw [hs.prev m (by omega) hin, hhash] at hnext
      have hbest' := examine_best hbest (fun q hq => lt_of_lt_of_le hlt (hfar q hq)) (by omega) hu
      have hfar' : ∀ q ∈ C ++ [m].filter (inWindow s), m ≤ q := fun q hq => by
        rcases List.mem_append.mp hq with hq | hq
        · exact hlt.le.trans (hfar q hq)
        · exact (List.mem_singleton.mp (List.mem_filter.mp hq).1).ge
      have hend := ih (w := { u with m := next }) hbest' (by omega) hfar' (Option.some.inj hnext).symm hrun
      rw [hchain, List.take_succ_cons, ← List.singleton_append, List.filter_append, ← List.append_assoc]
      exact hend

/-- What `SEARCH` leaves in `best_len` and `best_dist` is the best of the candidates, all of them within the registers'
widths (R106, R113). -/
theorem search_best (hs : ChainsExact P s) (hin : s.p + 3 ≤ s.size) (h : search P s = .ok t) :
    BestAmong s (candidates P s) t.scratch.bestLen.toNat t.scratch.bestDist.toNat := by
  unfold search at h
  rw [if_pos hin] at h
  simp only [bind_eq_ok, Except.ok.injEq] at h
  obtain ⟨hash, hhash, w, hwalk, rfl⟩ := h
  have hbest := walk_best hs (C := []) ⟨nofun, .inl rfl⟩ (Nat.le_refl _) nofun (hs.head hash) hwalk
  rw [← hash3_eq_hashAt hhash, List.nil_append, ← candidates_eq] at hbest
  rcases walk_sound (.inl rfl) hwalk with h0 | hcopy
  · rw [h0] at hbest ⊢
    exact ⟨hbest.most, .inl rfl⟩
  · have hcap : searchCap s ≤ 258 := Nat.min_le_left _ _
    have hfits := hcopy.fits
    have hwindow := hcopy.window
    simpa only [BitVec.toNat_ofNat, Nat.mod_eq_of_lt (show w.bestLen < 2 ^ 9 by omega),
      Nat.mod_eq_of_lt (show w.bestDist < 2 ^ 16 by omega)] using hbest

/-- The token of a step, from the best match its search left (R107). -/
theorem chooseToken_cases {tok : Token} (h : chooseToken s = .ok tok) :
    (3 ≤ s.scratch.bestLen.toNat ∧ tok = .backRef s.scratch.bestLen.toNat s.scratch.bestDist.toNat) ∨
      (s.scratch.bestLen.toNat < 3 ∧ tok = .literal (byteAt s s.p)) := by
  unfold chooseToken at h
  split at h
  · rename_i hmin
    cases h
    exact .inl ⟨hmin, rfl⟩
  · rename_i hmin
    simp only [bind_eq_ok, Except.ok.injEq] at h
    obtain ⟨b, hb, rfl⟩ := h
    exact .inr ⟨Nat.lt_of_not_le hmin, by rw [byteAt_of_readIn hb]⟩

/-- The closed form of the token at the cursor (R113): the literal where there is no search or no agreement of 3 bytes,
else the match of the best candidate. -/
inductive ClosedForm (P : Config.Params) (s : State) : Token → Prop
  | tail (short : s.size < s.p + 3) : ClosedForm P s (.literal (byteAt s s.p))
  | literal (len dist : Nat) (search : s.p + 3 ≤ s.size) (best : BestAmong s (candidates P s) len dist)
      (short : len < 3) : ClosedForm P s (.literal (byteAt s s.p))
  | backRef (len dist : Nat) (search : s.p + 3 ≤ s.size) (best : BestAmong s (candidates P s) len dist)
      (min : 3 ≤ len) : ClosedForm P s (.backRef len dist)

theorem chooseToken_closedForm {tok : Token} (hs : ChainsExact P s) (hsearch : search P s = .ok t)
    (hchoose : chooseToken t = .ok tok) : ClosedForm P s tok := by
  have hrest := search_rest P s t hsearch
  have hbyte : byteAt t t.p = byteAt s s.p := by rw [hrest]; rfl
  by_cases hin : s.p + 3 ≤ s.size
  · have hbest := search_best hs hin hsearch
    rcases chooseToken_cases hchoose with ⟨hmin, rfl⟩ | ⟨hshort, rfl⟩
    · exact .backRef _ _ hin hbest hmin
    · rw [hbyte]
      exact .literal _ _ hin hbest hshort
  · have htail := search_tail (P := P) (Nat.lt_of_not_le hin)
    rw [hsearch] at htail
    cases htail
    rcases chooseToken_cases hchoose with ⟨hmin, -⟩ | ⟨-, rfl⟩
    · exact absurd hmin (by simp [State.noMatch])
    · exact .tail (Nat.lt_of_not_le hin)

/-- A match of R113's form is the one whose candidate agrees best, at the nearest such candidate. -/
theorem BestAmong.eq_of_greatest {C : List Nat} {len dist q : Nat} (h : BestAmong s C len dist) (hq : q ∈ C)
    (hpos : 0 < agreement s q)
    (hmax : ∀ r ∈ C, agreement s r < agreement s q ∨ (agreement s r = agreement s q ∧ r ≤ q)) :
    len = agreement s q ∧ dist = s.p - q := by
  have hmost := h.most q hq
  rcases h.reached with h0 | ⟨r, hr, hlen, hdist, hnear⟩
  · omega
  · rcases hmax r hr with hless | ⟨hsame, hle⟩
    · omega
    · have := hnear q hq (by omega)
      exact ⟨by omega, by omega⟩

/-- Settles O43: the token chosen has the closed form, which the two conditions of R113 determine. -/
theorem matchStepHasTheClosedForm : Obligations.MatchStepHasTheClosedForm := by
  intro P s hinv hloaded hs hlt
  obtain ⟨t, tok, s1, hrun, hsearch, hchoose, he⟩ := (hinv.matcherReady hloaded).matchStep_goes_on hlt
  refine ⟨t, tok, hrun, he.read_tok, he.fits.legal, fun hnone => ?_, fun q hq hin hmin hmax => ?_⟩
  · cases chooseToken_closedForm hs hsearch hchoose with
    | tail => rfl
    | literal => rfl
    | backRef len dist hin hbest hmin =>
      obtain ⟨q, hq, hlen, -⟩ := hbest.reached.resolve_left (by omega)
      have hless : agreement s q < 3 := hnone.resolve_left (by omega) q hq
      omega
  · have hmin : 3 ≤ agreement s q := hmin
    cases chooseToken_closedForm hs hsearch hchoose with
    | tail hshort => omega
    | literal len dist _ hbest hshort =>
      have := hbest.most q hq
      omega
    | backRef len dist _ hbest _ =>
      obtain ⟨rfl, rfl⟩ := hbest.eq_of_greatest hq (by omega) hmax
      rfl

end

end Sys2Proof.Machine
end

section
/-! Inputs of at most 131 bytes (R117): a search is made at `p ≤ 128` only, so it reaches every position that agrees in
3 bytes, whatever the hash. -/

namespace Sys2Proof.Machine

section
variable {P P' : Config.Params} {s t : State}

/-! The candidates of a short input. -/

theorem mem_chainBelow {h : BitVec 15} {n q : Nat} :
    q ∈ chainBelow P s h n ↔ q < n ∧ q + 3 ≤ s.size ∧ hashAt P s q = h := by
  induction n with
  | zero => simp [chainBelow]
  | succ n ih =>
    rw [chainBelow]
    split
    · rename_i hn
      rw [List.mem_cons, ih]
      constructor
      · rintro (rfl | ⟨hlt, hq⟩)
        · exact ⟨Nat.lt_succ_self _, hn⟩
        · exact ⟨by omega, hq⟩
      · rintro ⟨hlt, hq⟩
        exact (Nat.lt_succ_iff_lt_or_eq.mp hlt).symm.imp_right fun hlt => ⟨hlt, hq⟩
    · rename_i hn
      rw [ih]
      refine ⟨fun ⟨hlt, hq⟩ => ⟨by omega, hq⟩, fun ⟨hlt, hq⟩ => ⟨?_, hq⟩⟩
      rcases Nat.lt_succ_iff_lt_or_eq.mp hlt with hlt | rfl
      · exact hlt
      · exact absurd hq hn

theorem chainBelow_length_le (h : BitVec 15) (n : Nat) : (chainBelow P s h n).length ≤ n := by
  induction n with
  | zero => exact Nat.le_refl _
  | succ n ih =>
    rw [chainBelow]
    split
    · exact Nat.succ_le_succ ih
    · exact ih.trans (Nat.le_succ n)

/-- In a short input the bound of the walk and the window leave no candidate out. -/
theorem mem_candidates_of_short (hsize : s.size ≤ 131) (hin : s.p + 3 ≤ s.size) {q : Nat} :
    q ∈ candidates P s ↔ q < s.p ∧ hashAt P s q = hashAt P s s.p := by
  have hlen : (chainBelow P s (hashAt P s s.p) s.p).length ≤ Config.maxChain :=
    (chainBelow_length_le _ _).trans (show s.p ≤ 128 by omega)
  rw [candidates_eq, List.take_of_length_le hlen, List.mem_filter, mem_chainBelow, inWindow, decide_eq_true_eq]
  constructor
  · rintro ⟨⟨hlt, -, hhash⟩, -⟩
    exact ⟨hlt, hhash⟩
  · rintro ⟨hlt, hhash⟩
    exact ⟨⟨hlt, by omega, hhash⟩, by omega⟩

/-- Below the agreement the bytes are equal. -/
theorem byteAt_of_lt_commonPrefix {q p n i : Nat} (h : i < commonPrefix s q p n) :
    byteAt s (q + i) = byteAt s (p + i) := by
  induction n generalizing q p i with
  | zero => cases h
  | succ n ih =>
    rw [commonPrefix] at h
    split at h
    · rename_i hfirst
      cases i with
      | zero => exact hfirst
      | succ i =>
        have := ih (Nat.lt_of_succ_lt_succ h)
        rwa [Nat.add_assoc, Nat.add_comm 1 i, Nat.add_assoc, Nat.add_comm 1 i] at this
    · cases h

/-- Positions that agree in 3 bytes have the same hash (R117). -/
theorem hashAt_of_agreement {q : Nat} (h : 3 ≤ agreement s q) : hashAt P s q = hashAt P s s.p := by
  have hbyte : ∀ i, i < 3 → byteAt s (q + i) = byteAt s (s.p + i) := fun i hi =>
    byteAt_of_lt_commonPrefix (lt_of_lt_of_le hi h)
  rw [hashAt, hashAt, show byteAt s q = byteAt s s.p from hbyte 0 (by decide), hbyte 1 (by decide), hbyte 2 (by decide)]

/-- A candidate that agrees in 3 bytes is one for every hash. -/
theorem mem_candidates_of_hash (hsize : s.size ≤ 131) (hin : s.p + 3 ≤ s.size) {q : Nat} (hq : q ∈ candidates P s)
    (hmin : 3 ≤ agreement s q) : q ∈ candidates P' s := by
  obtain ⟨hlt, -⟩ := (mem_candidates_of_short hsize hin).mp hq
  exact (mem_candidates_of_short hsize hin).mpr ⟨hlt, hashAt_of_agreement hmin⟩

/-! The token of a short input. -/

/-- The best match found with one hash is a candidate with the other, so the other finds none shorter. -/
theorem BestAmong.len_le_of_hash {len dist len' dist' : Nat} (hsize : s.size ≤ 131) (hin : s.p + 3 ≤ s.size)
    (h : BestAmong s (candidates P s) len dist) (h' : BestAmong s (candidates P' s) len' dist') (hmin : 3 ≤ len) :
    len ≤ len' ∧ (len = len' → dist' ≤ dist) := by
  obtain ⟨q, hq, hlen, hdist, -⟩ := h.reached.resolve_left (by omega)
  have hq' : q ∈ candidates P' s := mem_candidates_of_hash hsize hin hq (by omega)
  have hmost := h'.most q hq'
  refine ⟨by omega, fun heq => ?_⟩
  obtain ⟨r, -, -, hdist', hnear⟩ := h'.reached.resolve_left (by omega)
  have := hnear q hq' (by omega)
  omega

theorem BestAmong.eq_of_hash {len dist len' dist' : Nat} (hsize : s.size ≤ 131) (hin : s.p + 3 ≤ s.size)
    (h : BestAmong s (candidates P s) len dist) (h' : BestAmong s (candidates P' s) len' dist') (hmin : 3 ≤ len) :
    len = len' ∧ dist = dist' := by
  obtain ⟨hle, hdist⟩ := h.len_le_of_hash hsize hin h' hmin
  obtain ⟨hle', hdist'⟩ := h'.len_le_of_hash hsize hin h (hmin.trans hle)
  have hlen : len = len' := Nat.le_antisymm hle hle'
  exact ⟨hlen, Nat.le_antisymm (hdist' hlen.symm) (hdist hlen)⟩

/-- The closed form of a short input's token is the same for every hash (R117). -/
theorem ClosedForm.eq_of_hash {tok tok' : Token} (hsize : s.size ≤ 131) (h : ClosedForm P s tok)
    (h' : ClosedForm P' s tok') : tok = tok' := by
  cases h with
  | tail hout =>
    cases h' with
    | tail => rfl
    | literal => rfl
    | backRef _ _ hin => omega
  | literal len dist hin hbest hshort =>
    cases h' with
    | tail => rfl
    | literal => rfl
    | backRef len' dist' _ hbest' hmin' =>
      have := (hbest'.len_le_of_hash hsize hin hbest hmin').1
      omega
  | backRef len dist hin hbest hmin =>
    cases h' with
    | tail hout => omega
    | literal len' dist' _ hbest' hshort' =>
      have := (hbest.len_le_of_hash hsize hin hbest' hmin).1
      omega
    | backRef len' dist' _ hbest' _ =>
      obtain ⟨rfl, rfl⟩ := hbest.eq_of_hash hsize hin hbest' hmin
      rfl

/-! The run. -/

/-- The two states have the same input, cursor and tokens. -/
structure SameRun (s t : State) : Prop where
  input : t.input = s.input
  size : t.size = s.size
  p : t.p = s.p
  ntok : t.ntok = s.ntok
  tok : t.tok = s.tok

theorem SameRun.byteAt_eq (h : SameRun s t) (i : Nat) : byteAt t i = byteAt s i := by simp [byteAt, h.input]

theorem SameRun.commonPrefix_eq (h : SameRun s t) (q p n : Nat) : commonPrefix t q p n = commonPrefix s q p n := by
  induction n generalizing q p with
  | zero => rfl
  | succ n ih => simp only [commonPrefix, h.byteAt_eq, ih]

theorem SameRun.agreement_eq (h : SameRun s t) (q : Nat) : agreement t q = agreement s q := by
  rw [agreement, h.commonPrefix_eq, h.p, searchCap, h.p, h.size, ← searchCap, ← agreement]

theorem SameRun.candidates_eq (h : SameRun s t) (P : Config.Params) : candidates P t = candidates P s := by
  simp only [candidates, chainBelow_congr h.input h.size, hashAt_congr h.input, h.p]

theorem SameRun.best (h : SameRun s t) {C : List Nat} {len dist : Nat} (hbest : BestAmong t C len dist) :
    BestAmong s C len dist where
  most r hr := h.agreement_eq r ▸ hbest.most r hr
  reached := by simpa only [h.agreement_eq, h.p] using hbest.reached

/-- The closed form depends on the input and the cursor alone. -/
theorem SameRun.closedForm (h : SameRun s t) {tok : Token} (hform : ClosedForm P t tok) : ClosedForm P s tok := by
  have hp := h.p
  have hsize := h.size
  cases hform with
  | tail hout =>
    rw [h.byteAt_eq, hp]
    exact .tail (by omega)
  | literal len dist hin hbest hshort =>
    rw [h.byteAt_eq, hp]
    exact .literal len dist (by omega) (h.candidates_eq P ▸ h.best hbest) hshort
  | backRef len dist hin hbest hmin => exact .backRef len dist (by omega) (h.candidates_eq P ▸ h.best hbest) hmin

theorem SameRun.tokens_eq (h : SameRun s t) : t.tokens = s.tokens := by
  rw [State.tokens, h.ntok, tokensTo_congr (s := s) fun i _ => by rw [h.tok], ← State.tokens]

/-- The same token keeps the two runs the same. -/
theorem SameRun.emits {s' t' : State} {tok : Token} (h : SameRun s s') (he : Emits P s t tok)
    (he' : Emits P' s' t' tok) : SameRun t t' := by
  rw [he.rest, he'.rest]
  exact ⟨h.input, h.size, by simp only [h.p], by simp only [h.ntok], by simp only [h.tok, h.ntok]⟩

/-- A step keeps what the next one needs (R115, R116). -/
theorem Emits.keeps_ready {tok : Token} (h : MatcherReady P s) (he : Emits P s t tok) : MatcherReady P t := by
  obtain ⟨hpos, hend⟩ := he.fits.covers
  obtain ⟨s1, s2, hs1, hins, ht⟩ := he.inserted
  have hstart : ChainsCausalTo (appendToken tok s1) s.p := by
    rw [hs1]
    exact ⟨h.chains.head, h.chains.prev, h.chains.inserted⟩
  have hcausal := insertFrom_induction (fun _ _ _ => insertAt_keeps_causal) hstart hins
  have hp := he.p_eq
  have hntok : t.ntok = s.ntok + 1 := by rw [he.rest]
  have hsize : t.size = s.size := by rw [he.rest]
  have htokens := h.tokens
  exact {
    cursor := by omega
    size := hsize ▸ h.size
    tokens := by omega
    chains := by
      rw [hp, ht]
      exact ⟨hcausal.head, hcausal.prev, hcausal.inserted⟩
    loaded := h.loaded.congr (by rw [he.rest]) hsize }

/-- A matcher run with exact chains that is ready for its next step. -/
structure ExactRun (P : Config.Params) (s : State) : Prop where
  ready : MatcherReady P s
  chains : ChainsExact P s

/-- A step of an exact run emits the token of the closed form, and the run stays exact (R113, R115). -/
theorem ExactRun.matchStep_goes_on (h : ExactRun P s) (hlt : s.p < s.size) :
    ∃ t tok, matchStep P s = .ok t ∧ Emits P s t tok ∧ ClosedForm P s tok ∧ ExactRun P t := by
  obtain ⟨t, tok, s1, hrun, hsearch, hchoose, he⟩ := h.ready.matchStep_goes_on hlt
  exact ⟨t, tok, hrun, he, chooseToken_closedForm h.chains hsearch hchoose, he.keeps_ready h.ready,
    matchStep_keeps_exact h.chains hrun⟩

/-- A run begins with empty chains (R45, R201). -/
theorem beginRun_exactRun (hfits : s.inSize ≤ P.nMax) (hloaded : Loaded s.beginRun) : ExactRun P s.beginRun :=
  ⟨⟨Nat.zero_le _, hfits, Nat.le_refl _, ⟨nofun, nofun, fun _ hq => absurd hq (Nat.not_lt_zero _)⟩, hloaded⟩,
    beginRun_exact P s⟩

/-- Two exact runs of the same short input have the same tokens after any number of steps. -/
theorem SameRun.matchRun_tokens {s' : State} (h : SameRun s s') (hs : ExactRun P s) (hs' : ExactRun P' s')
    (hsize : s.size ≤ 131) (n : Nat) : (matchRun P n s).map State.tokens = (matchRun P' n s').map State.tokens := by
  induction n generalizing s s' with
  | zero => exact congrArg Except.ok h.tokens_eq.symm
  | succ n ih =>
    by_cases hlt : s.p < s.size
    · have hlt' : s'.p < s'.size := by rwa [h.p, h.size]
      obtain ⟨t, tok, hrun, he, hform, ht⟩ := hs.matchStep_goes_on hlt
      obtain ⟨t', tok', hrun', he', hform', ht'⟩ := hs'.matchStep_goes_on hlt'
      have htok : tok = tok' := hform.eq_of_hash hsize (h.closedForm hform')
      subst htok
      rw [matchRun, matchRun, if_pos hlt, if_pos hlt', hrun, hrun']
      exact ih (h.emits he he') ht ht' (by rw [he.rest]; exact hsize)
    · have hlt' : ¬ s'.p < s'.size := by rwa [h.p, h.size]
      rw [matchRun, matchRun, if_neg hlt, if_neg hlt']
      exact congrArg Except.ok h.tokens_eq.symm

end

/-- Settles O45: both runs begin exact and with the same input, and each step emits the same token. -/
theorem shortInputsIgnoreTheHash : Obligations.ShortInputsIgnoreTheHash := by
  intro P P' s n hmax hfits hsize hloaded
  exact SameRun.matchRun_tokens ⟨rfl, rfl, rfl, rfl, rfl⟩ (beginRun_exactRun hfits hloaded)
    (beginRun_exactRun (hmax ▸ hfits) hloaded) hsize n

end Sys2Proof.Machine
end

section
/-! The working registers carry nothing from one step to the next (R28, R101): two steps whose states differ in them
alone end alike. -/

namespace Sys2Proof.Machine

/-- Two operations end alike: both go on, to results that `R` relates, or both are stuck for the same reason. -/
def EndAlike {α : Type} (R : α → α → Prop) : Except Fault α → Except Fault α → Prop
  | .ok a, .ok b => R a b
  | .error e, .error f => e = f
  | _, _ => False

theorem EndAlike.refl {α : Type} {R : α → α → Prop} (h : ∀ a, R a a) (x : Except Fault α) : EndAlike R x x := by
  cases x with
  | ok a => exact h a
  | error e => exact Eq.refl e

theorem EndAlike.bind {α β : Type} {R : α → α → Prop} {S : β → β → Prop} {x y : Except Fault α}
    {f g : α → Except Fault β} (h : EndAlike R x y) (hfg : ∀ a b, R a b → EndAlike S (f a) (g b)) :
    EndAlike S (x.bind f) (y.bind g) := by
  cases x <;> cases y
  case ok.ok a b => exact hfg a b h
  case error.error e f => exact h
  all_goals exact h.elim

/-- After an operation that answers the same, what follows has to end alike. -/
theorem EndAlike.bind_same {α β : Type} {S : β → β → Prop} {x : Except Fault α} {f g : α → Except Fault β}
    (hfg : ∀ a, EndAlike S (f a) (g a)) : EndAlike S (x.bind f) (x.bind g) :=
  (EndAlike.refl (fun _ => rfl) x : EndAlike Eq x x).bind fun a _ h => h ▸ hfg a

theorem EndAlike.map_eq {α β : Type} {R : α → α → Prop} {x y : Except Fault α} (h : EndAlike R x y) {f : α → β}
    (hf : ∀ a b, R a b → f a = f b) : x.map f = y.map f := by
  cases x <;> cases y
  case ok.ok a b => exact congrArg Except.ok (hf a b h)
  case error.error e f => exact congrArg Except.error h
  all_goals exact h.elim

/-! The walk. -/

/-- The walks differ in `k` and `d` alone, which each candidate writes before it reads them. -/
def Walk.Alike (w v : Walk) : Prop := ∃ k d, v = { w with k := k, d := d }

/-- The two states differ in the working registers alone. -/
def State.Alike (s t : State) : Prop := ∃ sc, t = { s with scratch := sc }

theorem State.Alike.refl (s : State) : s.Alike s := ⟨s.scratch, rfl⟩

section
variable {P : Config.Params} {s t : State}

theorem cmpLenFrom_scratch (s : State) (sc : Scratch) (m p fuel k : Nat) :
    cmpLenFrom { s with scratch := sc } m p fuel k = cmpLenFrom s m p fuel k := by
  induction fuel generalizing k with
  | zero => rfl
  | succ fuel ih =>
    simp only [cmpLenFrom, ih]
    rfl

theorem examine_scratch (s : State) (sc : Scratch) (p cap m : Nat) (w : Walk) :
    examine { s with scratch := sc } p cap m w = examine s p cap m w := by
  simp only [examine, cmpLen, cmpLenFrom_scratch]

theorem examine_alike {w v : Walk} (h : w.Alike v) (s : State) (p cap m : Nat) :
    EndAlike Walk.Alike (examine s p cap m w) (examine s p cap m v) := by
  obtain ⟨k, d, rfl⟩ := h
  unfold examine
  dsimp only
  split
  · exact ⟨k, (p : Int) - m, rfl⟩
  · exact EndAlike.refl (fun u => ⟨u.k, u.d, rfl⟩) _

theorem walk_alike {w v : Walk} (h : w.Alike v) (s : State) (sc : Scratch) (p cap fuel : Nat) :
    EndAlike Walk.Alike (walk P s p cap fuel w) (walk P { s with scratch := sc } p cap fuel v) := by
  induction fuel generalizing w v with
  | zero => exact h
  | succ fuel ih =>
    have hm : v.m = w.m := by
      obtain ⟨k, d, rfl⟩ := h
      rfl
    unfold walk
    rw [hm]
    cases w.m with
    | none => exact h
    | some m =>
      dsimp only
      rw [examine_scratch s sc]
      refine (examine_alike h s p cap m).bind fun a b hab => EndAlike.bind_same fun next => ih ?_
      obtain ⟨k, d, rfl⟩ := hab
      exact ⟨k, d, rfl⟩

/-! The step. -/

/-- The states after a search: alike, with the same best match. -/
def State.SameBest (s t : State) : Prop :=
  ∃ sc, t = { s with scratch := sc } ∧ sc.bestLen = s.scratch.bestLen ∧ sc.bestDist = s.scratch.bestDist

theorem search_alike (h : s.Alike t) : EndAlike State.SameBest (search P s) (search P t) := by
  obtain ⟨sc, rfl⟩ := h
  unfold search
  dsimp only
  split
  · refine EndAlike.bind_same fun hash => ?_
    have hentry : (searchEntry s hash).Alike (searchEntry { s with scratch := sc } hash) := ⟨sc.k.toNat, sc.d, rfl⟩
    refine (walk_alike hentry s sc _ _ _).bind fun w v hwv => ?_
    obtain ⟨k, d, rfl⟩ := hwv
    exact ⟨_, rfl, rfl, rfl⟩
  · exact ⟨_, rfl, rfl, rfl⟩

theorem chooseToken_sameBest (h : s.SameBest t) : chooseToken t = chooseToken s := by
  obtain ⟨sc, rfl, hlen, hdist⟩ := h
  simp only [chooseToken, hlen, hdist]
  rfl

theorem insertAt_alike (h : s.Alike t) (pos : Nat) : EndAlike State.Alike (insertAt P pos s) (insertAt P pos t) := by
  obtain ⟨sc, rfl⟩ := h
  unfold insertAt
  dsimp only
  split
  · split
    · exact EndAlike.bind_same fun hash => ⟨_, rfl⟩
    · exact EndAlike.refl State.Alike.refl _
  · exact ⟨sc, rfl⟩

theorem insertFrom_alike (h : s.Alike t) (n pos : Nat) :
    EndAlike State.Alike (insertFrom P n pos s) (insertFrom P n pos t) := by
  induction n generalizing s t pos with
  | zero => exact h
  | succ n ih => exact (insertAt_alike h pos).bind fun _ _ hab => ih hab (pos + 1)

theorem matchStep_alike (h : s.Alike t) : EndAlike State.Alike (matchStep P s) (matchStep P t) := by
  refine (search_alike h).bind fun a b hab => ?_
  rw [chooseToken_sameBest hab]
  obtain ⟨sc, rfl, -⟩ := hab
  refine EndAlike.bind_same fun tok => ?_
  dsimp only
  split
  · refine (insertFrom_alike ⟨sc, rfl⟩ _ _).bind fun c d hcd => ?_
    obtain ⟨sc', rfl⟩ := hcd
    exact ⟨sc', rfl⟩
  · exact ⟨sc, rfl⟩

end

/-- Settles O44: the two steps end alike, and states that are alike are equal up to the working registers. -/
theorem scratchRegistersCarryNothing : Obligations.ScratchRegistersCarryNothing := by
  intro P s sc
  refine (EndAlike.map_eq (matchStep_alike ⟨sc, rfl⟩) ?_).symm
  rintro a b ⟨sc', rfl⟩
  rfl

end Sys2Proof.Machine
end

section
/-! The range lookups answer the one entry that covers their operand (R122, R123), and nothing outside their operand ranges
(U3). -/

namespace Sys2Proof

/-- The ranges of a rising table are disjoint: the lookup's answer is the only entry that covers the value. -/
theorem eq_of_coversAt {base : List Nat} (hbase : Rising base) {v i j : Nat} (hi : i < base.length)
    (hj : j < base.length) (hcovi : coversAt base v i = true) (hcovj : coversAt base v j = true) : j = i :=
  Option.some.inj <| ((rangeIndex_eq_some hbase v j).mpr ⟨hj, hcovj⟩).symm.trans
    ((rangeIndex_eq_some hbase v i).mpr ⟨hi, hcovi⟩)

theorem lenBase_coversAt_iff {len i : Nat} :
    coversAt lenBase len i = true ↔ lenBase.getD i 0 ≤ len ∧ (i = 28 ∨ len < lenBase.getD (i + 1) 0) := by
  rw [coversAt_iff, show lenBase.length = 28 + 1 from rfl, Nat.add_right_cancel_iff]

theorem distBase_coversAt_iff {dist j : Nat} :
    coversAt distBase dist j = true ↔ distBase.getD j 0 ≤ dist ∧ (j = 29 ∨ dist < distBase.getD (j + 1) 0) := by
  rw [coversAt_iff, show distBase.length = 29 + 1 from rfl, Nat.add_right_cancel_iff]

/-- `LEN_LOOKUP` in its operand range, by the entry that covers the length. -/
theorem lenLookup_of_coversAt {len i : Nat} (hmin : 3 ≤ len) (hmax : len ≤ 258) (hi : i < lenBase.length)
    (hcov : coversAt lenBase len i = true) :
    lenLookup len = some (257 + i, lenExtra.getD i 0, len - lenBase.getD i 0) := by
  rw [lenLookup, if_pos ⟨hmin, hmax⟩, (rangeIndex_eq_some lenBase_rising len i).mpr ⟨hi, hcov⟩, Option.map_some]

/-- `DIST_LOOKUP` in its operand range, by the entry that covers the distance. -/
theorem distLookup_of_coversAt {dist j : Nat} (hmin : 1 ≤ dist) (hmax : dist ≤ 32768) (hj : j < distBase.length)
    (hcov : coversAt distBase dist j = true) :
    distLookup dist = some (j, distExtra.getD j 0, dist - distBase.getD j 0) := by
  rw [distLookup, if_pos ⟨hmin, hmax⟩, (rangeIndex_eq_some distBase_rising dist j).mpr ⟨hj, hcov⟩, Option.map_some]

theorem lenExtraValue_fits {len i : Nat} (hmax : len ≤ 258) (hi : i < lenBase.length)
    (hcov : coversAt lenBase len i = true) : len - lenBase.getD i 0 < 2 ^ lenExtra.getD i 0 := by
  obtain ⟨e, hfits, -, rfl⟩ := (lenCovers_iff hi len).mp ⟨hmax, hcov⟩
  rwa [Nat.add_sub_cancel_left]

theorem distExtraValue_fits {dist j : Nat} (hmax : dist ≤ 32768) (hj : j < distBase.length)
    (hcov : coversAt distBase dist j = true) : dist - distBase.getD j 0 < 2 ^ distExtra.getD j 0 := by
  obtain ⟨e, hfits, rfl⟩ := (distCovers_iff hj dist).mp ⟨hmax, hcov⟩
  rwa [Nat.add_sub_cancel_left]

theorem lenLookup_eq_none {len : Nat} (h : len < 3 ∨ 258 < len) : lenLookup len = none :=
  if_neg (by omega)

theorem distLookup_eq_none {dist : Nat} (h : dist < 1 ∨ 32768 < dist) : distLookup dist = none :=
  if_neg (by omega)

namespace Machine

/-- Settles O16: the lengths from the first base on are covered, and the bases rise. -/
theorem lenLookupIsTheUniqueRange : Obligations.LenLookupIsTheUniqueRange := by
  intro len hmin hmax
  obtain ⟨i, hi, hcov⟩ := exists_coversAt (base := lenBase) (by decide) hmin
  refine ⟨i, Nat.le_of_lt_succ hi, lenBase_coversAt_iff.mp hcov, fun j hj hle hnext => ?_,
    lenLookup_of_coversAt hmin hmax hi hcov, lenExtraValue_fits hmax hi hcov⟩
  exact eq_of_coversAt lenBase_rising hi (Nat.lt_succ_of_le hj) hcov (lenBase_coversAt_iff.mpr ⟨hle, hnext⟩)

/-- Settles O17: the distances from the first base on are covered, and the bases rise. -/
theorem distLookupIsTheUniqueRange : Obligations.DistLookupIsTheUniqueRange := by
  intro dist hmin hmax
  obtain ⟨j, hj, hcov⟩ := exists_coversAt (base := distBase) (by decide) hmin
  refine ⟨j, Nat.le_of_lt_succ hj, distBase_coversAt_iff.mp hcov, fun i hi hle hnext => ?_,
    distLookup_of_coversAt hmin hmax hj hcov, distExtraValue_fits hmax hj hcov⟩
  exact eq_of_coversAt distBase_rising hj (Nat.lt_succ_of_le hi) hcov (distBase_coversAt_iff.mpr ⟨hle, hnext⟩)

/-- Settles O18: the operand-range test of either lookup fails. -/
theorem lookupsAreRefusedOutsideTheirRange : Obligations.LookupsAreRefusedOutsideTheirRange :=
  ⟨fun _ => lenLookup_eq_none, fun _ => distLookup_eq_none⟩

end Machine

end Sys2Proof
end

section
/-! The bit writer's own statements: `PACK` appends its field (R134), `FLUSH` completes the last byte (R135), and an element
or a token after `FLUSH` raises `E_MISUSE` at its first `PACK` (R136, R181). -/

namespace Sys2Proof.Machine

/-- Settles O20: `PACK` appends wherever the writer is ready for the field. -/
theorem packAppendsLowBitsFirst : Obligations.PackAppendsLowBitsFirst := by
  intro P v n s hn hv hready
  exact pack_writes hn hv s (by rwa [lsbBits_length])

/-! `FLUSH`. -/

/-- The bits that complete the last byte are a field of zeros (R83). -/
theorem padBits_eq_lsbBits {b : Nat} (hb : b ≤ 7) (n : Nat) : padBits (8 * n + b) = lsbBits ((8 - b) % 8) 0 := by
  have hcount : (8 - (8 * n + b) % 8) % 8 = (8 - b) % 8 := by omega
  rw [padBits, hcount]
  simp [lsbBits]

/-- `FLUSH` with nothing pending sets `flushed` alone (R135). -/
theorem flush_of_empty (P : Config.Params) {s : State} (h : s.nbits = 0) :
    flush P s = .running { s with flushed := true } := by
  rw [flush, if_neg (by omega)]

theorem appendField_no_bits {s : State} (h : s.nbits ≤ 7) : appendField 0 0 s = s := by
  simp [appendField, Nat.div_eq_of_lt (Nat.lt_succ_of_le h), drain]

/-- Where `OUT` has room, `FLUSH` is the append of the zeros that complete the last byte, and then `flushed` (R135). -/
theorem flush_eq_appendField {P : Config.Params} {s : State} (hinv : BitWriterInv s)
    (hroom : s.outLen + (s.nbits + 7) / 8 ≤ Config.outCapacity P) :
    flush P s = .running { appendField 0 ((8 - s.nbits) % 8) s with flushed := true } := by
  have hpending := hinv.pending
  rcases flush_cases P s with ⟨-, hpos, hfull⟩ | ⟨hrun, hpos, -⟩ | ⟨hrun, hempty⟩
  · omega
  · have hrounds : (s.nbits + (8 - s.nbits) % 8) / 8 = 1 := by omega
    have hbits : s.nbits + (8 - s.nbits) % 8 - 8 = 0 := by omega
    have hacc : s.acc >>> 8 = 0 := by
      apply BitVec.eq_of_toNat_eq
      rw [BitVec.toNat_ushiftRight, Nat.shiftRight_eq_zero _ _
        (hinv.clean.trans_le (Nat.pow_le_pow_right (by decide) (by omega)))]
      rfl
    simp [hrun, appendField, hrounds, drain, emitByte, hbits, hacc]
  · have hnone : (8 - s.nbits) % 8 = 0 := by omega
    rw [hrun, hnone, appendField_no_bits hpending]

/-- Settles O22: `FLUSH` appends the padding, after which nothing is pending. -/
theorem flushCompletesTheLastByte : Obligations.FlushCompletesTheLastByte := by
  intro P s hinv hroom
  have hpending := hinv.pending
  have happ : Appends s _ (lsbBits ((8 - s.nbits) % 8) 0) :=
    appendField_appends hinv (by omega) (Nat.two_pow_pos _)
  have houtLen := happ.outLen
  have hnbits := happ.nbits
  have hclean := happ.inv.clean
  have hbytes := happ.bytes
  rw [lsbBits_length] at houtLen hnbits hbytes
  have hlen : (s.nbits + (8 - s.nbits) % 8) / 8 = (s.nbits + 7) / 8 := by omega
  have hempty : (appendField 0 ((8 - s.nbits) % 8) s).nbits = 0 := by omega
  have hrun := flush_eq_appendField hinv hroom
  refine ⟨_, hrun, ?_, ?_, hempty, rfl, ?_, fun hzero => ?_, ?_, ?_, flush_of_empty P hempty⟩
  · rw [padBits_eq_lsbBits hpending]
    exact happ.stream
  · rw [hempty] at hclean
    exact BitVec.eq_of_toNat_eq (by simpa using hclean)
  · rw [← hlen]
    exact houtLen
  · rw [flush_of_empty P hzero] at hrun
    exact (Flow.running.inj hrun).symm
  · rw [← hlen]
    exact hbytes
  · rw [happ.rest]

/-! After `FLUSH`. -/

theorem pack_of_flushed {s : State} (h : s.flushed = true) (P : Config.Params) (v n : Nat) :
    pack P v n s = .stopped (s.raise .eMisuse) := by
  simp only [pack, packFault, h, if_true]

theorem encLit_of_flushed {s : State} (h : s.flushed = true) (P : Config.Params) (b : Byte) :
    encLit P b s = .stopped (s.raise .eMisuse) := by
  simp only [encLit, packCode, pack_of_flushed h, ite_self]

theorem encLength_of_flushed {s : State} (h : s.flushed = true) (P : Config.Params) (code extra : Nat) :
    encLength P code extra s = .stopped (s.raise .eMisuse) := by
  simp only [encLength, packCode, pack_of_flushed h, Flow.stopped_andThen]

theorem encMatch_of_flushed {P : Config.Params} {len dist : Nat} {s : State} {f : Flow} (h : s.flushed = true)
    (hf : encMatch P len dist s = some f) : f = .stopped (s.raise .eMisuse) := by
  unfold encMatch at hf
  split at hf
  · rw [encLength_of_flushed h] at hf
    exact (Option.some.inj hf).symm
  · cases hf

/-- The first `PACK` of an element or a token stops its flow (R136, R186). -/
theorem ElementFlow.stopped_of_flushed {s : State} {i : Instr} {f : Flow} (hflow : ElementFlow s i f)
    (h : s.flushed = true) : f = .stopped (s.raise .eMisuse) := by
  cases hflow with
  | header => simp only [encHdr, pack_of_flushed h, Flow.stopped_andThen]
  | literal _ b => exact encLit_of_flushed h _ b
  | length _ code k extra => exact encLength_of_flushed h _ code extra
  | distance => simp only [encDistance, packCode, pack_of_flushed h, Flow.stopped_andThen]
  | endOfBlock => simp only [encEob, packCode, pack_of_flushed h, Flow.stopped_andThen]
  | tokenLit b => rw [encLit_of_flushed h, Flow.stopped_andThen]
  | tokenMatch l d f hf => rw [encMatch_of_flushed h hf, Flow.stopped_andThen]

/-- The fields of a match token are in the lookups' ranges (R85, U3). -/
theorem exists_encMatch (P : Config.Params) (l : BitVec 8) (d : BitVec 15) (s : State) :
    ∃ f, encMatch P (tokenLength l) (tokenDistance d) s = some f := by
  have hl := l.isLt
  have hd := d.isLt
  obtain ⟨code, k, e, hlen⟩ := exists_lenLookup (len := tokenLength l) (by unfold tokenLength; omega)
    (by unfold tokenLength; omega)
  obtain ⟨symbol, k', e', hdist⟩ := exists_distLookup (dist := tokenDistance d) (by unfold tokenDistance; omega)
    (by unfold tokenDistance; omega)
  exact ⟨_, by rw [encMatch, hlen, hdist]⟩

/-- A well-formed element or token runs its flow where it is enabled, and is refused elsewhere (R72, R140). -/
theorem exec_eq_whenEnabled {i : Instr} (hwf : i.wellFormed = true) (hi : i.position ≠ .ctrl) (s : State) :
    ∃ f, ElementFlow s i f ∧ exec i s = whenEnabled (enabledAt i s) f := by
  cases i
  case start => exact absurd rfl hi
  case reset => exact absurd rfl hi
  case hdr => exact ⟨_, .header, rfl⟩
  case eob => exact ⟨_, .endOfBlock, rfl⟩
  case lit8 b => exact ⟨_, .literal _ b (.inl rfl), if_pos (of_decide_eq_true hwf)⟩
  case lit9 b => exact ⟨_, .literal _ b (.inr rfl), if_pos (of_decide_eq_true hwf)⟩
  case tokLit b => exact ⟨_, .tokenLit b, rfl⟩
  case tokMatch l d =>
    obtain ⟨f, hf⟩ := exists_encMatch Config.params l d s
    exact ⟨_, .tokenMatch l d f hf, by rw [exec, execTokMatch, hf]; rfl⟩
  case len284 e => exact ⟨_, .length _ _ _ _ rfl, exec_length rfl ((wellFormed_length rfl).mp hwf) s⟩
  case len257 | len258 | len259 | len260 | len261 | len262 | len263 | len264 | len265 | len266 |
      len267 | len268 | len269 | len270 | len271 | len272 | len273 | len274 | len275 | len276 |
      len277 | len278 | len279 | len280 | len281 | len282 | len283 | len285 =>
    exact ⟨_, .length _ _ _ _ rfl, rfl⟩
  all_goals exact ⟨_, .distance _ _ _ _ rfl, rfl⟩

/-- Settles O30: the element is enabled, and its flow ends at the raise. -/
theorem flushedEncoderRaisesMisuse : Obligations.FlushedEncoderRaisesMisuse := by
  intro s i hwf hi hat hflushed
  obtain ⟨f, hflow, hexec⟩ := exec_eq_whenEnabled hwf hi s
  rw [hexec, hat, hflow.stopped_of_flushed hflushed]
  rfl

end Sys2Proof.Machine
end

section
/-! The encoder's elements and tokens append their bits (R141 to R150, R156); out of its place, or with an operand it does
not cover, an element is refused (R72, R87, R140). -/

namespace Sys2Proof.Machine

section
variable {P : Config.Params} {s t : State} {bits : List Bool}

/-! The place in the sequence is no part of the stream. -/

theorem Appends.place (h : Appends s t bits) (k : Nat) (g : EncStage) :
    Appends { s with tk := k, encStage := g } { t with tk := k, encStage := g } bits where
  stream := h.stream
  inv := ⟨h.inv.pending, h.inv.clean⟩
  outLen := h.outLen
  nbits := h.nbits
  bytes := h.bytes
  rest := by rw [h.rest]

theorem WriterReady.place {n : Nat} (h : WriterReady P s n) (k : Nat) (g : EncStage) (b : Bool) :
    WriterReady P { s with tk := k, encStage := g, distDue := b } n :=
  ⟨⟨h.inv.pending, h.inv.clean⟩, h.notFlushed, h.room⟩

/-- An enabled operation that goes on. -/
theorem whenEnabled_running {b : Bool} {f : Flow} (hb : b = true) (hf : f = .running t) :
    whenEnabled b f = .next t := by
  rw [hb, hf]
  rfl

/-! `PACK_CODE` (R142). -/

/-- Bit `j` of the reversed code is bit `n - 1 - j` of the code (R10). -/
theorem rev_testBit {n c j : Nat} (hj : j < n) : (rev n c).testBit j = c.testBit (n - 1 - j) := by
  have h := congrArg (·[j]?) (lsbBits_rev n c)
  simpa [lsbBits, msbBits, hj] using h

/-- Settles O21: the reversed code is a field of `n` bits. -/
theorem packCodeAppendsHighBitsFirst : Obligations.PackCodeAppendsHighBitsFirst := by
  intro P c n s hn _ hready
  exact ⟨rfl, fun j => rev_testBit, packCode_writes (by omega) s (by rwa [msbBits_length])⟩

/-! The header and the end of the block. -/

/-- What the stream is while no byte is stored: the pending bits (R39). -/
theorem stream_of_outLen_zero (h : s.outLen = 0) : s.stream = lsbBits s.nbits s.acc.toNat := by
  simp [State.stream, State.outBytes, bitsOfBytes, h]

/-- An append of less than a byte to an empty stream leaves its bits pending (R134). -/
theorem Appends.pending_of_empty (h : Appends s t bits) (hnbits : s.nbits = 0) (hlen : s.outLen = 0)
    (hshort : bits.length < 8) : t.acc.toNat = natOfLsb bits ∧ t.nbits = bits.length ∧ t.outLen = 0 := by
  have htlen : t.outLen = 0 := by rw [h.outLen, hlen, hnbits]; omega
  have htnbits : t.nbits = bits.length := by rw [h.nbits, hnbits]; omega
  have hpending : lsbBits t.nbits t.acc.toNat = bits := by
    rw [← stream_of_outLen_zero htlen, h.stream, stream_of_outLen_zero hlen, hnbits]
    rfl
  refine ⟨?_, htnbits, htlen⟩
  rw [← hpending, natOfLsb_lsbBits, Nat.mod_eq_of_lt h.inv.clean]

/-- `ENC_HDR` appends `BFINAL` and `BTYPE` (R73, R141). -/
theorem encHdr_appends (h : WriterReady P s 3) :
    ∃ t, encHdr P s = .running t ∧
      Appends { s with encStage := stageAfter s.tk s.ntok } t [true, true, false] := by
  have hfields : Writes P (fun s => (pack P 1 1 s).andThen (pack P 1 2)) (lsbBits 1 1 ++ lsbBits 2 1) :=
    (pack_writes (by decide) (by decide)).andThen (pack_writes (by decide) (by decide))
  obtain ⟨u, hrun, happ⟩ := hfields s h
  have htk : u.tk = s.tk := by rw [happ.rest]
  have hntok : u.ntok = s.ntok := by rw [happ.rest]
  refine ⟨{ u with tk := s.tk, encStage := stageAfter s.tk s.ntok }, ?_, happ.place _ _⟩
  have hrun' : (pack P 1 1 s).andThen (pack P 1 2) = .running u := hrun
  rw [encHdr, hrun', Flow.running_andThen, htk, hntok]

/-- Settles O23: the two fields of the header, which from an empty writer stay pending. -/
theorem headerElementWritesFinalFixed : Obligations.HeaderElementWritesFinalFixed := by
  intro s hat hready
  obtain ⟨t, hrun, happ⟩ := encHdr_appends hready
  refine ⟨t, whenEnabled_running hat hrun, happ, fun _ hnbits hlen => ?_⟩
  obtain ⟨hacc, hrest⟩ := happ.pending_of_empty hnbits hlen (by decide)
  exact ⟨BitVec.eq_of_toNat_eq hacc, hrest⟩

/-- Settles O27: the code of `EOB` is zero. -/
theorem endOfBlockWritesSevenZeros : Obligations.EndOfBlockWritesSevenZeros := by
  intro s hat hready
  obtain ⟨t, hrun, happ⟩ := packCode_writes (P := Config.params) (c := 0) (n := 7) (by decide) s hready
  have htk : t.tk = s.tk := by rw [happ.rest]
  have hflow : encEob Config.params s = .running { t with tk := s.tk, encStage := .flush } := by
    rw [encEob, hrun, Flow.running_andThen, htk]
  exact ⟨_, whenEnabled_running hat hflow, happ.place _ _⟩

/-! Literals. -/

/-- `ENC_LIT` appends the element of its byte (R143, R144, R156). -/
theorem encLit_writes (P : Config.Params) (b : Byte) : Writes P (encLit P b) (tokenBits (.literal b)) := by
  intro s h
  rw [tokenBits_literal] at h ⊢
  unfold encLit
  split
  · rename_i hb
    rw [if_pos hb] at h
    exact packCode_writes (by decide) s h
  · rename_i hb
    rw [if_neg hb] at h
    exact packCode_writes (by decide) s h

/-- A row that is `ENC_LIT` of its byte writes the element of the byte. -/
theorem exec_of_encLit {i : Instr} {b : Byte} (hexec : exec i s = whenEnabled (atLitLen s) (encLit Config.params b s))
    (hat : atLitLen s = true) (hready : WriterReady Config.params s (tokenBits (.literal b)).length) :
    ∃ t, exec i s = .next t ∧ Appends s t (tokenBits (.literal b)) := by
  obtain ⟨t, hrun, happ⟩ := encLit_writes Config.params b s hready
  exact ⟨t, hexec.trans (whenEnabled_running hat hrun), happ⟩

/-- Settles O24: each row is `ENC_LIT` of its byte, on its side of the split at 143. -/
theorem literalElementsWriteTheirCodes : Obligations.LiteralElementsWriteTheirCodes := by
  refine ⟨fun s b hat hb hready => ?_, fun s b hat hb hready => ?_⟩
  · have hbits : tokenBits (.literal b) = msbBits 8 (0x30 + b.toNat) := if_pos hb
    rw [← hbits]
    exact exec_of_encLit (if_pos hb) hat (by rwa [hbits, msbBits_length])
  · have hbits : tokenBits (.literal b) = msbBits 9 (0x190 + (b.toNat - 144)) := if_neg (by omega)
    rw [← hbits]
    exact exec_of_encLit (if_pos hb) hat (by rwa [hbits, msbBits_length])

/-! Tokens. -/

/-- `ENC_MATCH` of a legal match appends its length element and its distance element (R145, R156). -/
theorem encMatch_appends {len dist : Nat} (hlegal : (Token.backRef len dist).legal = true) (hdue : s.distDue = false)
    (h : WriterReady P s (tokenBits (.backRef len dist)).length) :
    ∃ t, encMatch P len dist s = some (.running t) ∧ Appends s t (tokenBits (.backRef len dist)) := by
  obtain ⟨code, k, e, symbol, k', e', hlen, hdist⟩ := exists_match_rows hlegal
  rw [tokenBits_backRef hlen hdist, List.length_append] at h
  obtain ⟨u, hlength, hcode⟩ := encLength_writes (lenLookup_eq_some.mp hlen).1 (h.mono (Nat.le_add_right _ _))
  have hready := (h.place s.tk s.encStage true).after hcode
  obtain ⟨v, hdistance, hsymbol⟩ := encDistance_writes (distLookup_eq_some.mp hdist).1 hready
  have hs : { s with distDue := false } = s := by rw [← hdue]
  refine ⟨v, by rw [encMatch, hlen, hdist]; simp only [hlength, Flow.running_andThen, hdistance], ?_⟩
  rw [tokenBits_backRef hlen hdist, ← hs]
  exact (hcode.distDue false).trans hsymbol

/-- The end of a token whose element went on: `tk` steps, and the stage follows it (R140). -/
theorem Appends.tokenDone {u : State} (h : Appends s u bits) :
    ∃ t, tokenDone u = .running t ∧
      Appends { s with tk := s.tk + 1, encStage := stageAfter (s.tk + 1) s.ntok } t bits := by
  have htk : u.tk = s.tk := by rw [h.rest]
  have hntok : u.ntok = s.ntok := by rw [h.rest]
  refine ⟨{ u with tk := s.tk + 1, encStage := stageAfter (s.tk + 1) s.ntok }, ?_, h.place _ _⟩
  rw [Machine.tokenDone, htk, hntok]

/-- Every token an instruction stands for is legal (R36, R85). -/
theorem token_legal {i : Instr} {tok : Token} (h : i.token = some tok) : tok.legal = true := by
  cases i with
  | tokLit b => cases h; rfl
  | tokMatch l d =>
    cases h
    have hl := l.isLt
    have hd := d.isLt
    exact decide_eq_true (by omega)
  | _ => cases h

/-- Settles O28: the token's elements go on (R143 to R145), and then the token ends. -/
theorem tokensAreEncodedInOneTurn : Obligations.TokensAreEncodedInOneTurn := by
  intro s i tok htok hat hready
  cases i with
  | tokLit b =>
    cases htok
    obtain ⟨u, hlit, happ⟩ := encLit_writes Config.params b s hready
    obtain ⟨t, hdone, htapp⟩ := happ.tokenDone
    have hflow : (encLit Config.params b s).andThen tokenDone = .running t := by
      rw [hlit, Flow.running_andThen, hdone]
    exact ⟨rfl, t, whenEnabled_running hat hflow, htapp⟩
  | tokMatch l d =>
    have hlegal := token_legal htok
    cases htok
    obtain ⟨-, hdue⟩ : (s.phase = .encoding ∧ s.encStage = .tokens) ∧ s.distDue = false := by
      simpa [atLitLen] using hat
    obtain ⟨u, hmatch, happ⟩ := encMatch_appends hlegal hdue hready
    obtain ⟨t, hdone, htapp⟩ := happ.tokenDone
    refine ⟨hlegal, t, ?_, htapp⟩
    have hmatch' : encMatch Config.params (tokenLength l) (tokenDistance d) s = some (.running u) := hmatch
    rw [exec, execTokMatch, hmatch']
    exact whenEnabled_running hat hdone
  | _ => cases htok

/-! Refusals. -/

/-- A command of `CTRL` is taken everywhere (R23). -/
theorem enabledAt_of_ctrl {i : Instr} (h : i.position = .ctrl) (s : State) : enabledAt i s = true := by
  cases i
  case start => rfl
  case reset => rfl
  all_goals cases h

/-- The elements with an operand that their row does not cover (R76, R77, R87). -/
theorem wellFormed_eq_false {i : Instr} (h : i.wellFormed = false) :
    (∃ b : Byte, i = .lit8 b ∧ ¬ b.toNat ≤ 143) ∨ (∃ b : Byte, i = .lit9 b ∧ ¬ 144 ≤ b.toNat) ∨
      (∃ e : BitVec 5, i = .len284 e ∧ ¬ e.toNat ≤ 30) := by
  cases i
  case lit8 b => exact .inl ⟨b, rfl, of_decide_eq_false h⟩
  case lit9 b => exact .inr (.inl ⟨b, rfl, of_decide_eq_false h⟩)
  case len284 e => exact .inr (.inr ⟨e, rfl, fun hle => of_decide_eq_false h fun _ => hle⟩)
  all_goals cases h

/-- Settles O31: a well-formed instruction runs its flow only where it is enabled, and the three rows with a range test
their operand first. -/
theorem elementsOutOfPlaceRefused : Obligations.ElementsOutOfPlaceRefused := by
  refine ⟨fun s i hwf hat => ?_, fun s i hwf => ?_, fun s => ⟨_, _, rfl, rfl⟩⟩
  · have hi : i.position ≠ .ctrl := fun hctrl => by simp [enabledAt_of_ctrl hctrl] at hat
    obtain ⟨f, -, hexec⟩ := exec_eq_whenEnabled hwf hi s
    rw [hexec, hat]
    rfl
  · rcases wellFormed_eq_false hwf with ⟨b, rfl, hb⟩ | ⟨b, rfl, hb⟩ | ⟨e, rfl, he⟩
    · exact if_neg hb
    · exact if_neg hb
    · exact if_neg he

end

end Sys2Proof.Machine
end

section
/-! The size of a block (R83, R155). -/

namespace Sys2Proof.Machine

/-- A legal token takes at most 9 bits for each byte it covers (R155): 25 bits for a length up to 10, which has no extra
bits, and 31 for the longer ones. -/
theorem tokenBits_length_le {tok : Token} (h : tok.legal = true) : (tokenBits tok).length ≤ 9 * covers tok := by
  cases tok with
  | literal b =>
    rw [tokenBits_literal]
    split <;> simp [covers]
  | backRef len dist =>
    obtain ⟨hmin, -⟩ := of_decide_eq_true h
    obtain ⟨code, k, e, symbol, k', e', hlen, hdist⟩ := exists_match_rows h
    have hlength := lengthElement_width hlen
    have hdistance := (distanceRow_width (distLookup_eq_some.mp hdist).1).2
    have hmax := (lengthRow_width (lenLookup_eq_some.mp hlen).1).2
    rw [tokenBits_backRef hlen hdist, List.length_append, covers]
    by_cases hshort : len ≤ 10
    · rw [if_pos hshort] at hlength
      omega
    · omega

theorem flatMap_tokenBits_length_le {ts : List Token} (h : ∀ t ∈ ts, t.legal = true) :
    (ts.flatMap tokenBits).length ≤ 9 * covered ts := by
  induction ts with
  | nil => exact Nat.le_refl _
  | cons tok ts ih =>
    have htok := tokenBits_length_le (h tok List.mem_cons_self)
    have hrest := ih fun t ht => h t (List.mem_cons_of_mem _ ht)
    simp only [covered, List.map_cons, List.sum_cons, List.flatMap_cons, List.length_append] at hrest ⊢
    omega

theorem blockBody_length_le {ts : List Token} (h : ∀ t ∈ ts, t.legal = true) :
    (blockBody ts).length ≤ 10 + 9 * covered ts := by
  have htokens := flatMap_tokenBits_length_le h
  simp only [blockBody, List.length_append, List.length_cons, List.length_nil, List.length_replicate]
  omega

/-- The padding fills the last byte (R83). -/
theorem blockBits_length (ts : List Token) : (blockBits ts).length = 8 * (((blockBody ts).length + 7) / 8) := by
  rw [blockBits, List.length_append, padBits, List.length_replicate]
  omega

/-- Settles O49: the bound of a token, summed over the block. -/
theorem blockBitsAreBounded : Obligations.BlockBitsAreBounded :=
  ⟨fun _ h => blockBody_length_le h,
    fun ts h => ⟨blockBits_length ts, Nat.div_le_div_right (Nat.add_le_add_right (blockBody_length_le h) 7)⟩, rfl, rfl⟩

end Sys2Proof.Machine
end

section
/-! CORE's own steps in `ENCODE` (R140, R151, R162), and the commands and driven elements a step runs (R23). -/

namespace Sys2Proof.Machine

/-! What a step runs. -/

theorem step_of_run {s u : State} {i : Instr} (h : fetch Config.params s = .run i u) : step s = exec i u := by
  rw [step, h]

/-- CORE's own operation, where no transaction is due. -/
theorem step_of_core_run {s : State} {i : Instr} (hdue : s.due = none)
    (h : fetchCore Config.params s.tick = .run i s.tick) : step s = exec i s.tick :=
  step_of_run ((fetch_of_not_due _ s hdue).trans h)

theorem step_of_driven {s t : State} {bits : List Bool} {i : Instr} (hdue : s.due = some (.drive bits, t))
    (hd : decode (encoderPosition t) bits = .ok (i, [])) : step s = exec i t :=
  step_of_run (by rw [fetch_of_due _ _ _ _ hdue, serve, fetchDriven, hd])

section
variable {P : Config.Params} {s : State} (hphase : s.phase = .encoding)
include hphase

theorem fetchCore_header (hstage : s.encStage = .hdr) : fetchCore P s = .run .hdr s := by
  simp only [fetchCore, hphase, hstage]

theorem fetchCore_token (hstage : s.encStage = .tokens) (hmore : s.tk < s.ntok) {w : TokenWord} {i : Instr}
    (hread : Memory.read s.tok s.tk = some w) (hd : decodeTokenWord w = .ok i) : fetchCore P s = .run i s := by
  simp only [fetchCore, hphase, hstage, if_pos hmore, fetchToken, readTok, hread, hd]

theorem fetchCore_eob (hstage : s.encStage = .eob ∨ (s.encStage = .tokens ∧ s.ntok ≤ s.tk)) :
    fetchCore P s = .run .eob s := by
  rcases hstage with hstage | ⟨hstage, hnone⟩
  · simp only [fetchCore, hphase, hstage]
  · simp only [fetchCore, hphase, hstage, if_neg (Nat.not_lt.mpr hnone)]

theorem fetchCore_flush (hstage : s.encStage = .flush) :
    fetchCore P s = .settled (.next (encFlush P s).state) := by
  simp only [fetchCore, hphase, hstage]

end

/-- Settles O10: the due transaction is decoded by the host port, and otherwise the stage says what runs. -/
theorem stepRunsDecodedInstruction : Obligations.StepRunsDecodedInstruction := by
  refine ⟨fun s t v i hdue hd => step_of_command hdue hd, fun s t bits i hdue hd => step_of_driven hdue hd,
    fun s hdue hphase => ⟨fun hstage => ?_, fun hstage hmore w i hread hd => ?_, fun hstage hnone => ?_,
      fun hstage => ?_⟩, fun s => by rw [s.tick_eq]⟩
  all_goals
    refine step_of_core_run hdue ?_
    have htick : s.tick.phase = .encoding := s.tick_phase.trans hphase
  · exact fetchCore_header htick (by rwa [State.tick_encStage])
  · exact fetchCore_token htick (by rwa [State.tick_encStage]) (by simpa using hmore) (by simpa using hread) hd
  · exact fetchCore_eob htick (.inr (by simpa using ⟨hstage, hnone⟩))
  · exact fetchCore_eob htick (.inl (by rwa [State.tick_encStage]))

/-- Settles O32: with room for the last byte `FLUSH` goes on. -/
theorem flushStageEndsTheRun : Obligations.FlushStageEndsTheRun := by
  intro s hdue hphase hstage hinv hroom
  have htick : BitWriterInv s.tick := ⟨by simpa using hinv.pending, by simpa using hinv.clean⟩
  obtain ⟨u, hrun, -⟩ := flushCompletesTheLastByte Config.params s.tick htick (by simpa using hroom)
  refine ⟨u, hrun, ?_⟩
  rw [step, fetch_of_not_due _ s hdue, fetchCore_flush (by simpa using hphase) (by simpa using hstage), encFlush, hrun]
  rfl

end Sys2Proof.Machine
end

section
/-! The run of `ENCODE` (R140, R156, R162): the header, the tokens one by one, the `EOB`, and the flush, each one step; and
the whole run of the empty input (R111). -/

namespace Sys2Proof.Machine

/-! Runs. -/

theorem runsTo_zero (s : State) : RunsTo 0 s s := rfl

theorem runsTo_succ_iff {n : Nat} {s t : State} :
    RunsTo (n + 1) s t ↔ ∃ u, step s = .next u ∧ RunsTo n u t := by
  have hcore : Sys2Proof.core.step s = step s := rfl
  unfold RunsTo
  simp only [Host.Core.run, hcore]
  cases step s <;> simp

/-- One more step at the end of a run. -/
theorem RunsTo.step {n : Nat} {s t u : State} (h : RunsTo n s t) (hstep : Machine.step t = .next u) :
    RunsTo (n + 1) s u := by
  induction n generalizing s with
  | zero =>
    cases h
    exact runsTo_succ_iff.mpr ⟨u, hstep, runsTo_zero u⟩
  | succ n ih =>
    obtain ⟨v, hfirst, hrest⟩ := runsTo_succ_iff.mp h
    exact runsTo_succ_iff.mpr ⟨v, hfirst, ih hrest⟩

/-! The TokenStream of a state. -/

/-- The tokens of `TOK[0 .. n)` are those of the words the space holds. -/
theorem tokensTo_spec {s : State} {n : Nat} {ts : List Token} (h : s.tokensTo n = some ts) :
    ts.length = n ∧ ∀ i tok, ts[i]? = some tok → ∃ w, Memory.read s.tok i = some w ∧ tokenOfWord w = some tok := by
  induction n generalizing ts with
  | zero => cases h; exact ⟨rfl, nofun⟩
  | succ n ih =>
    simp only [State.tokensTo] at h
    split at h
    · rename_i xs w hxs hw
      obtain ⟨last, hlast, rfl⟩ := Option.map_eq_some_iff.mp h
      obtain ⟨hlen, hget⟩ := ih hxs
      refine ⟨by simp [hlen], fun i tok htok => ?_⟩
      rcases Nat.lt_or_ge i n with hlt | hge
      · exact hget i tok (by rwa [List.getElem?_append_left (by omega)] at htok)
      · obtain ⟨hi, -⟩ := List.getElem?_eq_some_iff.mp htok
        obtain rfl : i = n := by simp at hi; omega
        rw [← hlen, List.getElem?_concat_length] at htok
        cases htok
        exact ⟨w, hw, hlast⟩
    · cases h

theorem tokenOfWord_eq_some {w : TokenWord} {tok : Token} (h : tokenOfWord w = some tok) :
    ∃ i, decodeTokenWord w = .ok i ∧ i.token = some tok := by
  unfold tokenOfWord at h
  split at h
  · rename_i i hd
    exact ⟨i, hd, h⟩
  · cases h

theorem tokens_legal {s : State} {ts : List Token} (h : s.tokens = some ts) : ∀ tok ∈ ts, tok.legal = true := by
  intro tok hmem
  obtain ⟨i, hi⟩ := List.getElem?_of_mem hmem
  obtain ⟨w, -, hw⟩ := (tokensTo_spec h).2 i tok hi
  obtain ⟨j, -, hj⟩ := tokenOfWord_eq_some hw
  exact token_legal hj

/-! The block so far. -/

/-- The bits of a block up to the end of the tokens `ts` (R72, R156). -/
def bitsThrough (ts : List Token) : List Bool := [true, true, false] ++ ts.flatMap tokenBits

theorem blockBody_eq (ts : List Token) : blockBody ts = bitsThrough ts ++ List.replicate 7 false := rfl

theorem bitsThrough_append (xs ys : List Token) : bitsThrough (xs ++ ys) = bitsThrough xs ++ ys.flatMap tokenBits := by
  simp [bitsThrough]

theorem bitsThrough_take_succ {ts : List Token} {k : Nat} {tok : Token} (h : ts[k]? = some tok) :
    bitsThrough (ts.take (k + 1)) = bitsThrough (ts.take k) ++ tokenBits tok := by
  simp [List.take_add_one, h, bitsThrough_append]

theorem bitsThrough_take_length_le (ts : List Token) (k : Nat) :
    (bitsThrough (ts.take k)).length ≤ (blockBody ts).length := by
  calc (bitsThrough (ts.take k)).length
      ≤ (bitsThrough (ts.take k) ++ (ts.drop k).flatMap tokenBits).length := by simp
    _ = (bitsThrough ts).length := by rw [← bitsThrough_append, List.take_append_drop]
    _ ≤ (blockBody ts).length := by simp [blockBody_eq]

/-! The steps of `ENCODE`. -/

/-- The start of `ENCODE` with an empty writer, the tokens `ts`, and no transaction pending. -/
structure EncodeStart (s : State) (ts : List Token) : Prop where
  phase : s.phase = .encoding
  stage : s.encStage = .hdr
  quiet : s.inbox = []
  distDue : s.distDue = false
  acc : s.acc = 0
  nbits : s.nbits = 0
  outLen : s.outLen = 0
  notFlushed : s.flushed = false
  tokens : s.tokens = some ts
  fits : covered ts ≤ Config.params.nMax

/-- `t` is `s` with the encoder at stage `g` and token `k`, and the bits appended. -/
def EncodedTo (s t : State) (k : Nat) (g : EncStage) (bits : List Bool) : Prop :=
  Appends { s with tk := k, encStage := g } t bits

section
variable {s t : State} {ts : List Token} {k : Nat} {g : EncStage} {bits : List Bool}

/-- What holds wherever the encoder is. -/
theorem EncodedTo.fields (h : EncodedTo s t k g bits) :
    t.tk = k ∧ t.encStage = g ∧ t.phase = s.phase ∧ t.ntok = s.ntok ∧ t.tok = s.tok ∧ t.distDue = s.distDue ∧
      t.inbox = s.inbox := by
  rw [h.rest]
  exact ⟨rfl, rfl, rfl, rfl, rfl, rfl, rfl⟩

/-- The encoder goes on from `t`, wherever it is afterwards. -/
theorem EncodedTo.trans {u : State} {k' : Nat} {g' : EncStage} {more : List Bool} (h : EncodedTo s t k g bits)
    (h' : EncodedTo t u k' g' more) : EncodedTo s u k' g' (bits ++ more) :=
  (h.place k' g').trans h'

/-- `OUT` has room for the whole block with its padding (R155). -/
theorem EncodeStart.ready (h : EncodeStart s ts) :
    WriterReady Config.params s ((blockBody ts).length + 7) where
  inv := .of_empty h.acc h.nbits
  notFlushed := h.notFlushed
  room := by
    have hbound := blockBody_length_le (tokens_legal h.tokens)
    have hfits := h.fits
    rw [h.outLen, h.nbits, Config.outCapacity]
    omega

/-- The room that is left. -/
theorem EncodeStart.ready_at (h : EncodeStart s ts) (ht : EncodedTo s t k g bits) {n : Nat}
    (hn : bits.length + n ≤ (blockBody ts).length + 7) : WriterReady Config.params t n :=
  ((h.ready.mono hn).place k g s.distDue).after ht

/-- With no transaction pending, CORE's own operation is the step. -/
theorem EncodedTo.step_eq (h : EncodedTo s t k g bits) (hquiet : s.inbox = []) {i : Instr}
    (hfetch : fetchCore Config.params t = .run i t) : step t = exec i t := by
  obtain ⟨-, -, -, -, -, -, hinbox⟩ := h.fields
  have hempty : t.inbox = [] := hinbox.trans hquiet
  have htick := State.tick_of_inbox_nil t hempty
  have hstep := step_of_core_run (State.due_of_inbox_nil t hempty) (by rwa [htick])
  rwa [htick] at hstep

/-- The header is one step (R141). -/
theorem EncodeStart.header_step (h : EncodeStart s ts) :
    ∃ t, step s = .next t ∧ EncodedTo s t s.tk (stageAfter s.tk s.ntok) [true, true, false] := by
  have htick := State.tick_of_inbox_nil s h.quiet
  have hfetch : fetchCore Config.params s.tick = .run .hdr s.tick := by
    rw [htick]
    exact fetchCore_header h.phase h.stage
  have hstep := step_of_core_run (State.due_of_inbox_nil s h.quiet) hfetch
  have hat : atHeader s = true := by simp [atHeader, h.phase, h.stage]
  obtain ⟨t, hrun, happ, -⟩ := headerElementWritesFinalFixed s hat
    (h.ready.mono (by simp [blockBody]))
  exact ⟨t, by rw [hstep, htick, hrun], happ⟩

/-- Each token is one step (R140). -/
theorem EncodeStart.token_step (h : EncodeStart s ts) {tok : Token} (htok : ts[k]? = some tok)
    (ht : EncodedTo s t k (stageAfter k s.ntok) (bitsThrough (ts.take k))) :
    ∃ u, step t = .next u ∧
      EncodedTo s u (k + 1) (stageAfter (k + 1) s.ntok) (bitsThrough (ts.take (k + 1))) := by
  obtain ⟨htk, hstage, hphase, hntok, hmem, hdue, -⟩ := ht.fields
  obtain ⟨hlen, hwords⟩ := tokensTo_spec h.tokens
  obtain ⟨w, hread, hw⟩ := hwords k tok htok
  obtain ⟨i, hdecode, hi⟩ := tokenOfWord_eq_some hw
  have hmore : k < s.ntok := hlen ▸ (List.getElem?_eq_some_iff.mp htok).1
  have hstage' : t.encStage = .tokens := hstage.trans (if_pos hmore)
  have hphase' : t.phase = .encoding := hphase.trans h.phase
  have hat : atLitLen t = true := by simp [atLitLen, hphase', hstage', hdue, h.distDue]
  have hroom := bitsThrough_take_length_le ts (k + 1)
  rw [bitsThrough_take_succ htok, List.length_append] at hroom
  obtain ⟨-, u, hrun, happ⟩ := tokensAreEncodedInOneTurn t i tok hi hat (h.ready_at ht (by omega))
  have hfetch : fetchCore Config.params t = .run i t :=
    fetchCore_token hphase' hstage' (by rwa [htk, hntok]) (by rwa [hmem, htk]) hdecode
  refine ⟨u, (ht.step_eq h.quiet hfetch).trans hrun, ?_⟩
  have hu : EncodedTo t u (t.tk + 1) (stageAfter (t.tk + 1) t.ntok) (tokenBits tok) := happ
  rw [htk, hntok] at hu
  rw [bitsThrough_take_succ htok]
  exact ht.trans hu

/-- The header and the first `k` tokens are `k + 1` steps. -/
theorem EncodeStart.runs_through (h : EncodeStart s ts) (hfirst : s.tk = 0) (hk : k ≤ s.ntok) :
    ∃ t, RunsTo (k + 1) s t ∧ EncodedTo s t k (stageAfter k s.ntok) (bitsThrough (ts.take k)) := by
  induction k with
  | zero =>
    obtain ⟨t, hstep, ht⟩ := h.header_step
    rw [hfirst] at ht
    exact ⟨t, (runsTo_zero s).step hstep, ht⟩
  | succ k ih =>
    obtain ⟨t, hrun, ht⟩ := ih (by omega)
    have hlen := (tokensTo_spec h.tokens).1
    obtain ⟨u, hstep, hu⟩ := h.token_step (List.getElem?_eq_getElem (by omega)) ht
    exact ⟨u, hrun.step hstep, hu⟩

/-- The `EOB` is one step (R150). -/
theorem EncodeStart.eob_step (h : EncodeStart s ts) (ht : EncodedTo s t s.ntok .eob (bitsThrough ts)) :
    ∃ u, step t = .next u ∧ EncodedTo s u s.ntok .flush (blockBody ts) := by
  obtain ⟨htk, hstage, hphase, -, -, hdue, -⟩ := ht.fields
  have hphase' : t.phase = .encoding := hphase.trans h.phase
  have hat : atEob t = true := by simp [atEob, hphase', hstage, hdue, h.distDue]
  have hready : WriterReady Config.params t 7 := h.ready_at ht (by simp [blockBody_eq])
  obtain ⟨u, hrun, happ⟩ := endOfBlockWritesSevenZeros t hat hready
  have hu : EncodedTo t u t.tk .flush (List.replicate 7 false) := happ
  rw [htk] at hu
  exact ⟨u, (ht.step_eq h.quiet (fetchCore_eob hphase' (.inl hstage))).trans hrun, ht.trans hu⟩

/-- The block is written and the run is done: `OUT` holds the bits of R156, and beside the stream and the encoder's
position nothing has changed. -/
structure BlockWritten (s t : State) (ts : List Token) : Prop where
  out : bitsOfBytes t.outBytes = blockBits ts
  rest : t = { s with
    phase := .done, tk := s.ntok, encStage := .flush, flushed := true, acc := t.acc, nbits := t.nbits, out := t.out,
    outLen := t.outLen }

/-- With nothing pending the stream is `OUT` (R39). -/
theorem stream_of_nbits_zero (h : t.nbits = 0) : t.stream = bitsOfBytes t.outBytes := by
  simp [State.stream, h]

/-- The flush is one step and ends the run (R151, R162). -/
theorem EncodeStart.flush_step (h : EncodeStart s ts) (ht : EncodedTo s t s.ntok .flush (blockBody ts)) :
    ∃ u, step t = .next u ∧ BlockWritten s u ts := by
  obtain ⟨-, hstage, hphase, -, -, -, hinbox⟩ := ht.fields
  have hempty : t.inbox = [] := hinbox.trans h.quiet
  have hready : WriterReady Config.params t 7 := h.ready_at ht (Nat.le_refl _)
  obtain ⟨u, hflush, hstep⟩ := flushStageEndsTheRun t (State.due_of_inbox_nil t hempty) (hphase.trans h.phase) hstage
    hready.inv hready.room
  obtain ⟨v, hflush', hstream, -, hnbits, hflushed, -, -, -, hrest, -⟩ :=
    flushCompletesTheLastByte Config.params t hready.inv hready.room
  rw [State.tick_of_inbox_nil t hempty, hflush'] at hflush
  cases hflush
  have hwritten : 8 * t.outLen + t.nbits = (blockBody ts).length := by
    have hlen : t.outLen = s.outLen + (s.nbits + (blockBody ts).length) / 8 := ht.outLen
    have hpending : t.nbits = (s.nbits + (blockBody ts).length) % 8 := ht.nbits
    rw [h.outLen, h.nbits] at hlen
    rw [h.nbits] at hpending
    omega
  have hempty' : s.stream = [] := by rw [stream_of_outLen_zero h.outLen, h.nbits, lsbBits_zero]
  have hbody : t.stream = s.stream ++ blockBody ts := ht.stream
  refine ⟨{ u with phase := .done }, hstep, ?_, ?_⟩
  · have hout : bitsOfBytes u.outBytes = blockBits ts := by
      rw [← stream_of_nbits_zero hnbits, hstream, hbody, hempty', hwritten, List.nil_append, blockBits]
    exact hout
  · have hbase := ht.rest
    rw [hbase, hflushed] at hrest
    rw [hrest]

/-- From the start of `ENCODE`, `ntok + 3` steps write the block (R140, R156). -/
theorem EncodeStart.runs (h : EncodeStart s ts) (hfirst : s.tk = 0) :
    ∃ t, RunsTo (s.ntok + 3) s t ∧ BlockWritten s t ts := by
  obtain ⟨t, hrun, ht⟩ := h.runs_through hfirst (Nat.le_refl _)
  have hall : ts.take s.ntok = ts := by rw [← (tokensTo_spec h.tokens).1, List.take_length]
  have heob : stageAfter s.ntok s.ntok = .eob := if_neg (Nat.lt_irrefl _)
  rw [hall, heob] at ht
  obtain ⟨u, hstepEob, hu⟩ := h.eob_step ht
  obtain ⟨v, hstepFlush, hv⟩ := h.flush_step hu
  exact ⟨v, (hrun.step hstepEob).step hstepFlush, hv⟩

end

/-- Settles O51: the run of `ENCODE` keeps `ERR`, and ends with `tk` at the last token. -/
theorem encodePhaseWritesTheBlock : Obligations.EncodePhaseWritesTheBlock := by
  intro s ts hphase hstage hquiet hdue htk hacc hnbits houtLen hflushed htokens hfits
  have hstart : EncodeStart s ts := ⟨hphase, hstage, hquiet, hdue, hacc, hnbits, houtLen, hflushed, htokens, hfits⟩
  obtain ⟨t, hrun, ht⟩ := hstart.runs htk
  refine ⟨t, hrun, ?_, ?_, ?_, ?_, ht.out⟩
  all_goals rw [ht.rest]

/-! The empty input. -/

theorem byteBits_injective {b c : Byte} (h : byteBits b = byteBits c) : b = c :=
  BitVec.eq_of_toNat_eq (eq_of_lsbBits_eq b.isLt c.isLt h)

/-- A byte sequence is fixed by its stream bits (R11). -/
theorem bitsOfBytes_injective {xs ys : List Byte} (h : bitsOfBytes xs = bitsOfBytes ys) : xs = ys := by
  induction xs generalizing ys with
  | nil =>
    cases ys with
    | nil => rfl
    | cons y ys => cases h
  | cons x xs ih =>
    cases ys with
    | nil => cases h
    | cons y ys =>
      have hsplit : byteBits x ++ bitsOfBytes xs = byteBits y ++ bitsOfBytes ys := h
      obtain ⟨hbyte, hrest⟩ := List.append_inj hsplit (by simp [byteBits])
      rw [byteBits_injective hbyte, ih hrest]

/-- A `START` that the phase and `IN_SIZE` allow begins the run (R164). -/
theorem ReadyToStart.exec_start {s : State} {S : List Byte} (h : ReadyToStart Config.params s S) :
    exec .start s = .next s.beginRun := by
  have hfits := h.fits
  have hsize := h.inSize
  rcases startRun_cases Config.params s with ⟨-, -, hbig⟩ | ⟨hrun, -⟩ | ⟨-, hother⟩
  · omega
  · rw [exec, execStart, hrun]
  · rcases h.phase with hp | hp <;> simp [hp] at hother

/-- With no byte left to match the step goes on to `ENCODE` (R162). -/
theorem step_of_matched {s : State} (hphase : s.phase = .matching) (hall : s.p = s.size) (hquiet : s.inbox = []) :
    step s = .next s.enterEncode := by
  have hfetch : fetchCore Config.params s = .settled (.next s.enterEncode) := by
    simp only [fetchCore, hphase, hall, Nat.lt_irrefl, if_false, if_true]
  rw [step, fetch_of_not_due _ s (State.due_of_inbox_nil s hquiet), State.tick_of_inbox_nil s hquiet, hfetch]

/-- Settles O54: the empty input has no token, and its block is the bits of the two bytes. -/
theorem emptyInputGivesTwoBytes : Obligations.EmptyInputGivesTwoBytes := by
  intro s h
  have hmatched : step s.beginRun = .next s.beginRun.enterEncode := step_of_matched rfl h.inSize.symm h.quiet
  have hstart : EncodeStart s.beginRun.enterEncode [] :=
    ⟨rfl, rfl, h.quiet, rfl, rfl, rfl, rfl, rfl, rfl, Nat.zero_le _⟩
  obtain ⟨t, hrun, ht⟩ := hstart.runs rfl
  have hbits : bitsOfBytes t.outBytes = bitsOfBytes [0x03, 0x00] := ht.out.trans (by decide)
  refine ⟨s.beginRun, t, h.exec_start, runsTo_succ_iff.mpr ⟨_, hmatched, hrun⟩, ?_, ?_, bitsOfBytes_injective hbits⟩
  all_goals rw [ht.rest]
  rfl

end Sys2Proof.Machine
end

section
/-! The framing controller: `START` (R164, R182), the host's writes of `IN` and `IN_SIZE` (R163), what CORE does by itself
outside `ENCODE` (R188, R195), and the rows of the phase table (R162). -/

namespace Sys2Proof.Machine

/-! `START`. -/

/-- In `IDLE` and `DONE` the comparison of `IN_SIZE` with `N_MAX` decides (R164, R182). -/
theorem startRun_of_idle (P : Config.Params) {s : State} (h : s.phase = .idle ∨ s.phase = .done) :
    startRun P s = if P.nMax < s.inSize then s.raise .eSize else s.beginRun := by
  rcases h with h | h <;> rw [startRun, h]

/-- In the other phases `START` is ignored (R164). -/
theorem startRun_ignored (P : Config.Params) {s : State}
    (h : s.phase = .matching ∨ s.phase = .encoding ∨ s.phase = .error) : startRun P s = s := by
  rcases h with h | h | h <;> rw [startRun, h]

/-- Settles O3: the three outcomes, each with its frame. -/
theorem startBeginsFaultsOrIsIgnored : Obligations.StartBeginsFaultsOrIsIgnored := by
  intro s
  refine ⟨fun hidle hfits => ⟨s.beginRun, ?_, rfl, rfl, rfl, rfl, rfl, fun _ => rfl, rfl, rfl, rfl, rfl, rfl, rfl, rfl,
    rfl, rfl, rfl⟩, fun hidle hbig => ?_, fun hother => ?_⟩
  · rw [exec, execStart, startRun_of_idle _ hidle, if_neg (Nat.not_lt.mpr hfits)]
  · rw [exec, execStart, startRun_of_idle _ hidle, if_pos hbig]
    rfl
  · rw [exec, execStart, startRun_ignored _ hother]

/-! The host's writes. -/

/-- Settles O33: the host port writes the one byte or the register, where the phase allows it. -/
theorem hostLoadWritesOutsideARun : Obligations.HostLoadWritesOutsideARun := by
  refine ⟨fun s t i b hdue hidle hi => ?_, fun s t v hdue hidle hv => ?_, fun s t v hdue hrun => ?_⟩
  all_goals have hphase : t.phase = s.phase := (due_fields hdue).1
  · have hinput : t.input = s.input := by rw [State.due_eq s t _ hdue]
    refine ⟨{ t with input := Memory.write t.input i b },
      step_of_settled hdue (by simp [serve, writeIn, hphase, hidle, hi]), Memory.read_write_self _ _ _,
      fun j hj => ?_, rfl⟩
    rw [← hinput]
    exact Memory.read_write_ne _ _ _ _ hj
  · exact step_of_settled hdue (by simp [serve, writeInSize, hphase, hidle, hv])
  · exact step_of_settled hdue (by simp [serve, writeInSize, hphase, hrun])

/-! CORE by itself. -/

/-- An operation of CORE's own that is settled by the fetch, where no transaction is due. -/
theorem step_of_core_settled {s : State} {o : Result} (hdue : s.due = none)
    (h : fetchCore Config.params s.tick = .settled o) : step s = o := by
  rw [step, fetch_of_not_due _ s hdue, h]

section
variable {P : Config.Params} {s : State}

/-- Below `size` the matcher's step is the operation, with its outcome (R101, R162). -/
theorem fetchCore_matching (hphase : s.phase = .matching) (hlt : s.p < s.size) :
    fetchCore P s = Fetched.ofExcept (matchStep P s) := by
  simp only [fetchCore, hphase, if_pos hlt]

/-- At `p = size` `MATCH` is over (R162). -/
theorem fetchCore_matched (hphase : s.phase = .matching) (hall : s.p = s.size) :
    fetchCore P s = .settled (.next s.enterEncode) := by
  simp only [fetchCore, hphase, hall, Nat.lt_irrefl, if_false, if_true]

/-- Outside a run CORE waits for the host (R188, R195; log 17). -/
theorem fetchCore_waits (hphase : s.phase = .idle ∨ s.phase = .done ∨ s.phase = .error) :
    fetchCore P s = .settled (.next s) := by
  rcases hphase with h | h | h <;> rw [fetchCore, h]

end

/-- Settles O9: the phase and the comparison of `p` with `size` say the operation, and `tick` is about `inbox` alone. -/
theorem encodeFollowsMatchAndIdleWaits : Obligations.EncodeFollowsMatchAndIdleWaits := by
  refine ⟨fun s hdue => ⟨fun hphase hlt => ?_, fun hphase hall => ?_, fun hphase => ?_⟩,
    fun s => by rw [s.tick_eq], fun s hquiet => ⟨s.due_of_inbox_nil hquiet, s.tick_of_inbox_nil hquiet⟩⟩
  · have hfetch := fetchCore_matching (P := Config.params) (s.tick_phase.trans hphase)
      (by rwa [State.tick_p, State.tick_size])
    exact ⟨fun t hrun => step_of_core_settled hdue (by rw [hfetch, hrun]; rfl),
      fun f hrun => step_of_core_settled hdue (by rw [hfetch, hrun]; rfl)⟩
  · exact step_of_core_settled hdue
      (fetchCore_matched (s.tick_phase.trans hphase) (by rwa [State.tick_p, State.tick_size]))
  · exact step_of_core_settled hdue (fetchCore_waits (by rwa [State.tick_phase]))

/-! The phase. -/

section
variable {P : Config.Params} {s t u : State}

/-- The instructions of the position of a `CTRL` write are the two commands (R23). -/
theorem eq_command_of_ctrl {i : Instr} (h : i.position = .ctrl) : i = .start ∨ i = .reset := by
  cases i
  case start => exact .inl rfl
  case reset => exact .inr rfl
  all_goals cases h

/-- No instruction leads to `DONE` (R162). -/
theorem exec_phase_ne_done {i : Instr} (hphase : s.phase ≠ .done) (h : exec i s = .next t) : t.phase ≠ .done := by
  by_cases hi : i.position = .ctrl
  · rcases eq_command_of_ctrl hi with rfl | rfl
    · cases h
      rcases startRun_cases Config.params s with ⟨ht, -⟩ | ⟨ht, -⟩ | ⟨ht, -⟩ <;> rw [ht]
      · nofun
      · nofun
      · exact hphase
    · cases h
      nofun
  · obtain ⟨-, -, ⟨hp, -⟩ | ⟨hp, -⟩⟩ := exec_encoder_frame i s t hi h
    · rwa [hp]
    · simp [hp]

/-- An instruction runs in the phase it was fetched in. -/
theorem fetch_run_phase {i : Instr} (h : fetch P s = .run i u) : u.phase = s.phase := by
  rcases hdue : s.due with _ | ⟨r, v⟩
  · obtain ⟨rfl, -⟩ := fetchCore_run P s.tick u i (fetch_of_not_due P s hdue ▸ h)
    exact s.tick_phase
  · obtain ⟨rfl, -⟩ := serve_run P r v u i (fetch_of_due P s v r hdue ▸ h)
    exact (due_fields hdue).1

theorem writeInSize_phase (P : Config.Params) (v : Nat) (s : State) : (writeInSize P v s).phase = s.phase := by
  obtain ⟨n, f, ht, -⟩ := writeInSize_cases P v s
  rw [ht]

/-- A transaction that is no command keeps the phase. -/
theorem serve_settled_phase {r : Request} (h : serve P r s = .settled (.next t)) : t.phase = s.phase := by
  rcases serve_settled P r s t h with rfl | ⟨v, -, rfl⟩ | ⟨i, b, -, -, -, rfl⟩ | ⟨v, rfl⟩
  · rfl
  · exact writeInSize_phase P v s
  · rfl
  · rfl

/-- The one step from `ENCODE` to `DONE` is that of the stage `FLUSH` (R151, R162). -/
theorem encStage_of_step_to_done (hphase : s.phase = .encoding) (hdone : t.phase = .done) (h : step s = .next t) :
    s.encStage = .flush := by
  rcases step_cases s t h with ⟨i, u, hrun, hexec⟩ | hset
  · have hu : u.phase ≠ .done := by rw [fetch_run_phase hrun, hphase]; nofun
    exact absurd hdone (exec_phase_ne_done hu hexec)
  · rcases hdue : s.due with _ | ⟨r, v⟩
    · have htick : s.tick.phase = .encoding := s.tick_phase.trans hphase
      rcases fetchCore_settled _ s.tick t (fetch_of_not_due _ s hdue ▸ hset) with
        ⟨-, rfl⟩ | ⟨hp, -⟩ | ⟨hp, -⟩ | ⟨-, hstage, -⟩
      · rw [htick] at hdone; cases hdone
      · rw [htick] at hp; cases hp
      · rw [htick] at hp; cases hp
      · rwa [State.tick_encStage] at hstage
    · have hp := serve_settled_phase (fetch_of_due _ s v r hdue ▸ hset)
      rw [hdone, (due_fields hdue).1, hphase] at hp
      cases hp

end

/-- Settles O8, by the effects of a step: those that change `PHASE` are the rows of R162. -/
theorem phaseChangesOnlyAsListed : Obligations.PhaseChangesOnlyAsListed := by
  intro s t hstep hne
  obtain ⟨box, heff⟩ := step_effect hstep
  cases heff with
  | reset runs ht => exact .inr (.inr (.inr (.inr (.inr ⟨runs, by rw [ht]; rfl⟩))))
  | start runs ht =>
    rcases startRun_cases Config.params { s with inbox := box } with ⟨hs, hidle, hbig⟩ | ⟨hs, hidle, hfits⟩ | ⟨hs, -⟩
    · exact .inr (.inl ⟨hidle, runs, hbig, by rw [ht, hs]; rfl, by rw [ht, hs]; rfl⟩)
    · exact .inl ⟨hidle, runs, hfits, by rw [ht, hs]; rfl⟩
    · exact absurd (by rw [ht, hs]) hne
  | element i pos token run =>
    obtain ⟨hphase, -, ⟨hp, -⟩ | ⟨hp, herr⟩⟩ := exec_encoder_frame i _ t pos run
    · exact absurd hp hne
    · exact .inr (.inr (.inr (.inr (.inl ⟨.inr hphase, hp, herr⟩))))
  | matchStep phase more run =>
    obtain ⟨-, ⟨hp, -⟩ | ⟨hp, herr⟩, -⟩ := matchStep_frame _ _ t run
    · exact absurd hp hne
    · exact .inr (.inr (.inr (.inr (.inl ⟨.inl phase, hp, by simp [herr]⟩))))
  | enterEncode phase all ht => exact .inr (.inr (.inl ⟨phase, all, by rw [ht]; exact ⟨rfl, rfl, rfl⟩⟩))
  | flush phase ht =>
    rcases encFlush_cases Config.params { s with inbox := box } with hraise | ⟨u, -, hend, -⟩
    · exact .inr (.inr (.inr (.inr (.inl ⟨.inr phase, by rw [ht, hraise]; rfl, by rw [ht, hraise]; nofun⟩))))
    · have hdone : t.phase = .done := by rw [ht, hend]
      exact .inr (.inr (.inr (.inl ⟨phase, encStage_of_step_to_done phase hdone hstep, hdone⟩)))
  | hostInSize v due ht => exact absurd (by rw [ht]; exact writeInSize_phase _ _ _) hne
  | nothing ht | hostRead v ht | hostIn i b due idle fits ht => exact absurd (by rw [ht]) hne

end Sys2Proof.Machine
end

section
/-! The run of `MATCH` (R101, R162), the whole run, and the round trip (R168, R170). -/

namespace Sys2Proof.Machine

section
variable {s t u : State} {ts : List Token}

/-- Two runs, one after the other. -/
theorem RunsTo.trans {m n : Nat} (h : RunsTo m s t) (h' : RunsTo n t u) : RunsTo (m + n) s u := by
  induction m generalizing s with
  | zero =>
    cases h
    rwa [Nat.zero_add]
  | succ m ih =>
    obtain ⟨v, hstep, hrest⟩ := runsTo_succ_iff.mp h
    rw [Nat.succ_add]
    exact runsTo_succ_iff.mpr ⟨v, hstep, ih hrest⟩

/-! The steps of `MATCH`. -/

/-- Below `size`, with no transaction pending, the step is one `MATCH_STEP` (R162). -/
theorem step_of_matching (hphase : s.phase = .matching) (hlt : s.p < s.size) (hquiet : s.inbox = [])
    (hrun : matchStep Config.params s = .ok t) : step s = .next t := by
  refine step_of_core_settled (s.due_of_inbox_nil hquiet) ?_
  rw [s.tick_of_inbox_nil hquiet, fetchCore_matching hphase hlt, hrun]
  rfl

/-- `t` is `s` with the tokens `ts` emitted: they cover `IN[0 .. p)` and replay it (R37), and beside the matcher's own
registers, tables and tokens nothing has changed. -/
structure MatchedTo (s t : State) (ts : List Token) : Prop where
  ready : MatcherReady Config.params t
  tokens : t.tokens = some ts
  covers : covered ts = t.p
  replays : ∃ bs, t.inputTo t.p = some bs ∧ replay ts = some bs
  rest : t = { s with
    scratch := t.scratch, tok := t.tok, ntok := t.ntok, prev := t.prev, head := t.head, p := t.p }

/-- A run begins with no token (R164). -/
theorem beginRun_matchedTo (hfits : s.inSize ≤ Config.params.nMax) (hloaded : Loaded s.beginRun) :
    MatchedTo s.beginRun s.beginRun [] :=
  ⟨(beginRun_exactRun hfits hloaded).ready, rfl, rfl, ⟨[], rfl, rfl⟩, rfl⟩

theorem covered_concat (ts : List Token) (tok : Token) : covered (ts ++ [tok]) = covered ts + covers tok := by
  simp [covered]

/-- The step emits one more token (R101, R114). -/
theorem MatchedTo.emits {tok : Token} (h : MatchedTo s t ts) (he : Emits Config.params t u tok) :
    MatchedTo s u (ts ++ [tok]) := by
  obtain ⟨bs, hbs, hreplay⟩ := h.replays
  obtain ⟨bs', -, hbs'⟩ := he.fits.replay hbs
  rw [← he.p_eq] at hbs'
  have hinput : u.input = t.input := by rw [he.rest]
  exact {
    ready := he.keeps_ready h.ready
    tokens := he.tokens h.tokens
    covers := by rw [covered_concat, h.covers, he.p_eq]
    replays := ⟨bs', by rw [inputTo_congr hinput, hbs'], he.replays hbs hreplay hbs'⟩
    rest := by
      have hrest := he.rest
      rw [h.rest] at hrest
      rw [hrest] }

/-- The rest of `MATCH`: CORE's steps are those of the matcher alone, one for each token (R100, R162). -/
theorem MatchedTo.runs (h : MatchedTo s t ts) (hphase : s.phase = .matching) (hquiet : s.inbox = []) {n : Nat}
    (hn : t.size ≤ t.p + n) :
    ∃ k u us, matchRun Config.params n t = .ok u ∧ RunsTo k t u ∧ u.ntok = t.ntok + k ∧ u.p = u.size ∧
      MatchedTo s u us := by
  induction n generalizing t ts with
  | zero => exact ⟨0, t, ts, rfl, runsTo_zero t, rfl, Nat.le_antisymm h.ready.cursor hn, h⟩
  | succ n ih =>
    by_cases hlt : t.p < t.size
    · obtain ⟨v, tok, -, hrun, -, -, he⟩ := h.ready.matchStep_goes_on hlt
      have hstep : step t = .next v :=
        step_of_matching (by rw [h.rest]; exact hphase) hlt (by rw [h.rest]; exact hquiet) hrun
      obtain ⟨hpos, -⟩ := he.fits.covers
      have hp := he.p_eq
      have hsize : v.size = t.size := by rw [he.rest]
      have hntok : v.ntok = t.ntok + 1 := by rw [he.rest]
      obtain ⟨k, u, us, hmatch, hruns, hcount, hend, hu⟩ := ih (h.emits he) (by omega)
      refine ⟨k + 1, u, us, ?_, runsTo_succ_iff.mpr ⟨v, hstep, hruns⟩, by omega, hend, hu⟩
      rw [matchRun, if_pos hlt, hrun]
      exact hmatch
    · refine ⟨0, t, ts, ?_, runsTo_zero t, rfl, Nat.le_antisymm h.ready.cursor (Nat.not_lt.mp hlt), h⟩
      rw [matchRun, if_neg hlt]

/-! The whole run. -/

/-- The bytes the host has written are there when the run begins (R203). -/
theorem ReadyToStart.loaded {S : List Byte} (h : ReadyToStart Config.params s S) : Loaded s.beginRun := by
  intro i hi
  have hi : i < S.length := h.inSize ▸ hi
  rw [State.beginRun_input, ← (inputTo_spec h.input).2 i hi, List.getElem?_eq_getElem hi]
  rfl

/-- At the end of `MATCH` the step to `ENCODE` finds the writer as `START` left it (R162, R164). -/
theorem MatchedTo.encodeStart (h : MatchedTo s.beginRun t ts) (hquiet : s.inbox = []) (hall : t.p = t.size) :
    EncodeStart t.enterEncode ts where
  phase := rfl
  stage := rfl
  quiet := by rw [h.rest]; exact hquiet
  distDue := by rw [h.rest]; rfl
  acc := by rw [h.rest]; rfl
  nbits := by rw [h.rest]; rfl
  outLen := by rw [h.rest]; rfl
  notFlushed := by rw [h.rest]; rfl
  tokens := by
    have hsame : SameRun t t.enterEncode := ⟨rfl, rfl, rfl, rfl, rfl⟩
    exact hsame.tokens_eq.trans h.tokens
  fits := by rw [h.covers, hall]; exact h.ready.size

/-- The tokens of the whole input replay it (R37). -/
theorem MatchedTo.replays_all {S : List Byte} (h : MatchedTo s.beginRun t ts) (hready : ReadyToStart Config.params s S)
    (hall : t.p = t.size) : replay ts = some S := by
  obtain ⟨bs, hbs, hreplay⟩ := h.replays
  have hsize : t.size = S.length := by rw [h.rest]; exact hready.inSize
  have hinput : t.input = s.input := by rw [h.rest]; rfl
  rw [hall, hsize, inputTo_congr hinput, hready.input] at hbs
  rw [hreplay, hbs]

/-- A run on the input `S`: the matcher emits its tokens, which replay `S`, and their block is written (R162, R168). -/
theorem ReadyToStart.runs {S : List Byte} (h : ReadyToStart Config.params s S) :
    ∃ v t ts, matchRun Config.params S.length s.beginRun = .ok v ∧ v.p = v.size ∧ MatchedTo s.beginRun v ts ∧
      replay ts = some S ∧ RunsTo (2 * v.ntok + 4) s.beginRun t ∧ BlockWritten v.enterEncode t ts := by
  have hsize : s.beginRun.size ≤ s.beginRun.p + S.length := by
    rw [State.beginRun_size, State.beginRun_p, h.inSize, Nat.zero_add]
  obtain ⟨k, v, ts, hmatch, hruns, hcount, hall, hv⟩ :=
    (beginRun_matchedTo (h.inSize ▸ h.fits) h.loaded).runs rfl h.quiet hsize
  have hstep : step v = .next v.enterEncode :=
    step_of_matched (by rw [hv.rest]; rfl) hall (by rw [hv.rest]; exact h.quiet)
  obtain ⟨t, hencode, ht⟩ := (hv.encodeStart h.quiet hall).runs rfl
  have hrun := (hruns.step hstep).trans hencode
  rw [State.beginRun_ntok] at hcount
  rw [State.enterEncode_ntok, show k + 1 + (v.ntok + 3) = 2 * v.ntok + 4 by omega] at hrun
  exact ⟨v, t, ts, hmatch, hall, hv, hv.replays_all h hall, hrun, ht⟩

end

/-- Settles O53: the run writes the block of tokens that replay the input, and the decoder inverts the block. -/
theorem compressThenInflateIsIdentity : Obligations.CompressThenInflateIsIdentity := by
  intro s S h
  obtain ⟨v, t, ts, -, -, hv, hreplay, hrun, ht⟩ := h.runs
  refine ⟨_, s.beginRun, t, padBits (blockBody ts).length, h.exec_start, hrun, by rw [ht.rest], ?_, ?_⟩
  · rw [ht.out]
    exact inflateInvertsTheBlock ts S (tokens_legal hv.tokens) hreplay
  · rw [padBits, List.length_replicate]
    omega

end Sys2Proof.Machine
end

section
/-! Faults and where a run ends: the checks of `PACK` in their order (R187), `FLUSH` and `EMIT` beyond a capacity (R181), a
fault that writes `ERR` and `PHASE` alone (R186, R188), and every run in `DONE` (R168, R180). -/

namespace Sys2Proof.Machine

section
variable {P : Config.Params} {s t : State} {ts : List Token}

/-! Every run. -/

/-- `ENCODE` keeps `ERR` and the tokens it encodes (R54, R162). -/
theorem BlockWritten.keeps (h : BlockWritten s t ts) : t.err = s.err ∧ t.ntok = s.ntok ∧ t.tokens = s.tokens := by
  have hsame : SameRun s t := by
    rw [h.rest]
    exact ⟨rfl, rfl, rfl, rfl, rfl⟩
  exact ⟨by rw [h.rest], hsame.ntok, hsame.tokens_eq⟩

theorem MatchedTo.err (h : MatchedTo s t ts) : t.err = s.err := by rw [h.rest]

/-- There is at most one token for each byte (R116). -/
theorem MatchedTo.ntok_le_size (h : MatchedTo s t ts) : t.ntok ≤ s.size := by
  have hsize : t.size = s.size := by rw [h.rest]
  exact (h.ready.tokens.trans h.ready.cursor).trans_eq hsize

end

/-- Settles O52: the run of the matcher alone is CORE's, and `ENCODE` writes the block of its tokens and keeps them. -/
theorem everyRunEndsDone : Obligations.EveryRunEndsDone := by
  intro s S h
  obtain ⟨v, t, ts, hmatch, hall, hv, hreplay, hrun, ht⟩ := h.runs
  obtain ⟨herr, hntok, htokens⟩ := ht.keeps
  have hle := hv.ntok_le_size
  have hencode : SameRun v v.enterEncode := ⟨rfl, rfl, rfl, rfl, rfl⟩
  rw [State.enterEncode_err] at herr
  rw [State.enterEncode_ntok] at hntok
  rw [hencode.tokens_eq, hv.tokens] at htokens
  rw [State.beginRun_size, h.inSize] at hle
  exact ⟨s.beginRun, v, t, ts, h.exec_start, hmatch, hall, hv.tokens, hntok ▸ hrun, by rw [ht.rest],
    herr.trans hv.err, hntok ▸ hle, htokens, hreplay, ht.out⟩

section
variable {P : Config.Params} {s t : State}

/-! `PACK` and `FLUSH`. -/

theorem pack_of_fault {v n : Nat} {e : ErrCode} (h : packFault P v n s = some e) :
    pack P v n s = .stopped (s.raise e) := by
  rw [pack, h]

/-- `FLUSH` with bits pending and no room for their byte (R181). -/
theorem flush_of_full (hpending : 0 < s.nbits) (hfull : Config.outCapacity P < s.outLen + 1) :
    flush P s = .stopped (s.raise .eCapacity) := by
  rcases flush_cases P s with ⟨hstop, -⟩ | ⟨-, -, hroom⟩ | ⟨-, hempty⟩
  · exact hstop
  · omega
  · omega

/-! `EMIT` with `TOK` full. The search before it reads no token, so it goes on as it would with room in `TOK`. -/

theorem readIn_congr (hin : t.input = s.input) (hsize : t.size = s.size) (i : Nat) : readIn t i = readIn s i := by
  simp only [readIn, hin, hsize]

theorem cmpLenFrom_congr (hin : t.input = s.input) (hsize : t.size = s.size) (m p fuel k : Nat) :
    cmpLenFrom t m p fuel k = cmpLenFrom s m p fuel k := by
  induction fuel generalizing k with
  | zero => rfl
  | succ fuel ih => simp only [cmpLenFrom, readIn_congr hin hsize, ih]

/-- The walk reads `IN` below `size`, and `PREV` (R104 to R106, R110). -/
theorem walk_congr (hin : t.input = s.input) (hsize : t.size = s.size) (hprev : t.prev = s.prev) (p cap fuel : Nat)
    (w : Walk) : walk P t p cap fuel w = walk P s p cap fuel w := by
  induction fuel generalizing w with
  | zero => rfl
  | succ fuel ih => simp only [walk, examine, cmpLen, cmpLenFrom_congr hin hsize, readPrev, hprev, ih]

/-- How many tokens there are plays no part in a search (R103). -/
theorem search_ntok (s : State) (n : Nat) :
    EndAlike (fun t u => t = { u with ntok := n }) (search P { s with ntok := n }) (search P s) := by
  unfold search
  dsimp only
  split
  · refine EndAlike.bind_same fun h => ?_
    rw [walk_congr (s := s) (t := { s with ntok := n }) rfl rfl rfl]
    refine EndAlike.bind_same fun w => ?_
    exact Eq.refl _
  · exact Eq.refl _

/-- Causal chains and a loaded input are enough for the search, however many tokens there are (R115). -/
theorem ChainInv.search_goes_on (hchains : ChainInv s) (hloaded : Loaded s) (hcursor : s.p ≤ s.size)
    (hsize : s.size ≤ P.nMax) : ∃ t, search P s = .ok t := by
  have hcausal := (chainInv_iff s).mp hchains
  have hready : MatcherReady P { s with ntok := 0 } :=
    ⟨hcursor, hsize, Nat.zero_le _, ⟨hcausal.head, hcausal.prev, hcausal.inserted⟩, hloaded⟩
  obtain ⟨u, hu⟩ := hready.search_goes_on
  have halike := search_ntok (P := P) s 0
  rw [hu] at halike
  cases hsearch : search P s with
  | ok t => exact ⟨t, rfl⟩
  | error f =>
    rw [hsearch] at halike
    exact halike.elim

/-- A token that finds `TOK` full (R181; log 21). -/
theorem matchStep_of_full {tok : Token} (hsearch : search P s = .ok t) (hchoose : chooseToken t = .ok tok)
    (hfull : Config.tokCapacity P ≤ t.ntok) : matchStep P s = .ok (t.raise .eCapacity) :=
  (bind_eq_ok _ _ _).mpr ⟨t, hsearch, (bind_eq_ok _ _ _).mpr ⟨tok, hchoose, if_neg (Nat.not_lt.mpr hfull)⟩⟩

end

/-- Settles O6: where the checks before it pass, each check of `packFault` answers its own code. -/
theorem packChecksInOrder : Obligations.PackChecksInOrder := by
  intro P v n s
  refine ⟨fun hflushed => pack_of_flushed hflushed P v n, fun hopen hwide => pack_of_fault ?_,
    fun hopen hn hbig => pack_of_fault ?_, fun hopen hn hv hfull => pack_of_fault ?_⟩
  all_goals rw [packFault, if_neg (by simp [hopen])]
  · exact if_pos hwide
  · rw [if_neg (show ¬ Config.packNMax < n from Nat.not_lt.mpr hn), if_pos hbig]
  · rw [if_neg (show ¬ Config.packNMax < n from Nat.not_lt.mpr hn), if_neg (Nat.not_le.mpr hv),
      if_neg (mt (outRoom_iff P _).mp (Nat.not_le.mpr hfull))]

/-- Settles O57: the search before the `EMIT` goes on, and its working registers are all that stays of it. -/
theorem flushAndEmitRaiseCapacity : Obligations.FlushAndEmitRaiseCapacity := by
  refine ⟨fun P s => flush_of_full, fun P s hchains hloaded hlt hsize hfull => ?_⟩
  obtain ⟨u, hsearch⟩ := hchains.search_goes_on hloaded hlt.le hsize
  have hu := search_rest P s u hsearch
  have hloaded' : Loaded u := hloaded.congr (by rw [hu]) (by rw [hu])
  obtain ⟨tok, hchoose⟩ := hloaded'.chooseToken_goes_on (by rw [hu]; exact hlt)
  refine ⟨u.raise .eCapacity, matchStep_of_full hsearch hchoose (by rw [hu]; exact hfull), ?_⟩
  rw [hu]
  rfl

/-- Settles O5: a raise is its two writes, by the cases of each operation; the rows of the phase table lead from `ERROR`
by `RESET` alone. -/
theorem raiseDoesNothingElse : Obligations.RaiseDoesNothingElse := by
  refine ⟨fun s e => ⟨rfl, rfl, rfl⟩, fun P v n s u hstop => ?_, fun P s u hstop => ?_,
    fun P s t hrun hgoing herror => ?_, fun s t herror hstep => or_iff_not_imp_left.mpr fun hleft => ?_⟩
  · rcases pack_cases P v n s with ⟨hpack, -⟩ | ⟨hpack, -⟩ | ⟨hpack, -⟩ <;> rw [hpack] at hstop <;> cases hstop
    · exact ⟨_, rfl⟩
    · exact ⟨_, rfl⟩
  · rcases flush_cases P s with ⟨hflush, -⟩ | ⟨hflush, -⟩ | ⟨hflush, -⟩ <;> rw [hflush] at hstop <;> cases hstop
    rfl
  · rcases matchStep_emits hrun with ⟨tok, he⟩ | ⟨sc, rfl⟩
    · have hphase : t.phase = s.phase := by rw [he.rest]
      exact absurd (hphase.symm.trans herror) hgoing
    · rfl
  · rcases phaseChangesOnlyAsListed s t hstep (herror ▸ hleft) with
      ⟨hp | hp, -⟩ | ⟨hp | hp, -⟩ | ⟨hp, -⟩ | ⟨hp, -⟩ | ⟨hp | hp, -⟩ | ⟨hreset, -⟩
    case inr.inr.inr.inr.inr => exact hreset
    all_goals
      rw [herror] at hp
      cases hp

end Sys2Proof.Machine
end

section
/-! Power-on and `RESET` (R200), and that a run is fixed by its input (R202): a run begins with the matcher's own
registers and tables empty, `MATCH` reads `IN` below `size` only, and `ENCODE` writes the block of the tokens. -/

namespace Sys2Proof.Machine

section
variable {P : Config.Params} {s t : State}

/-! The reset state. -/

/-- The reset state has R45's values, whatever the registers hold that R45 leaves unspecified. -/
theorem reset_values (sc : Scratch) (f : Nat) (box : List Pending) (v : Option Nat) :
    ResetValues { State.reset with scratch := sc, free := f, inbox := box, rdata := v } :=
  ⟨rfl, rfl, rfl, rfl, rfl, rfl, rfl, fun _ => rfl, rfl, rfl, rfl, rfl, rfl⟩

/-! What the matcher depends on. -/

/-- The same branch of a conditional is taken by both operations. -/
theorem EndAlike.ite {α : Type} {R : α → α → Prop} {c d : Prop} [Decidable c] [Decidable d] {x x' y y' : Except Fault α}
    (hcd : c ↔ d) (hx : EndAlike R x x') (hy : EndAlike R y y') :
    EndAlike R (if c then x else y) (if d then x' else y') := by
  simp only [hcd]
  split
  · exact hx
  · exact hy

/-- The two states are the same to the matcher: reads of `IN` answer alike, and its registers (but the working ones),
chains and tokens are equal (R28, R51). Entries of `IN` at `size` and above may differ. -/
structure SameMatcher (s t : State) : Prop where
  readIn : ∀ i, readIn t i = readIn s i
  size : t.size = s.size
  p : t.p = s.p
  ntok : t.ntok = s.ntok
  head : t.head = s.head
  prev : t.prev = s.prev
  tok : t.tok = s.tok

/-- After a search the best match is the same, too. -/
structure SameChoice (s t : State) : Prop extends SameMatcher s t where
  bestLen : t.scratch.bestLen = s.scratch.bestLen
  bestDist : t.scratch.bestDist = s.scratch.bestDist

theorem SameMatcher.hash3_eq (h : SameMatcher s t) (q : Nat) : hash3 P t q = hash3 P s q := by
  simp only [hash3, h.readIn]

theorem SameMatcher.cmpLenFrom_eq (h : SameMatcher s t) (m p fuel k : Nat) :
    cmpLenFrom t m p fuel k = cmpLenFrom s m p fuel k := by
  induction fuel generalizing k with
  | zero => rfl
  | succ fuel ih => simp only [cmpLenFrom, h.readIn, ih]

theorem SameMatcher.walk_eq (h : SameMatcher s t) (p cap fuel : Nat) (w : Walk) :
    walk P t p cap fuel w = walk P s p cap fuel w := by
  induction fuel generalizing w with
  | zero => rfl
  | succ fuel ih => simp only [walk, examine, cmpLen, h.cmpLenFrom_eq, readPrev, h.prev, ih]

theorem SameMatcher.searchCap_eq (h : SameMatcher s t) : searchCap t = searchCap s := by
  rw [searchCap, searchCap, h.size, h.p]

/-- Two searches start from the same head; what they carry in `k` and `d` is written before it is read (R103, R105). -/
theorem SameMatcher.searchEntry_alike (h : SameMatcher s t) (hash : BitVec 15) :
    (searchEntry s hash).Alike (searchEntry t hash) :=
  ⟨t.scratch.k.toNat, t.scratch.d, by simp only [searchEntry, readHead, h.head]⟩

/-- The working registers play no part. -/
theorem SameMatcher.setScratch (h : SameMatcher s t) (sc sc' : Scratch) :
    SameMatcher { s with scratch := sc } { t with scratch := sc' } :=
  ⟨h.readIn, h.size, h.p, h.ntok, h.head, h.prev, h.tok⟩

theorem SameMatcher.search (h : SameMatcher s t) : EndAlike SameChoice (search P s) (search P t) := by
  refine EndAlike.ite (by rw [h.size, h.p]) ?_ ?_
  · have hhash : hash3 P t t.p = hash3 P s s.p := by rw [h.hash3_eq, h.p]
    rw [hhash]
    refine EndAlike.bind_same fun hash => ?_
    have hwalk : walk P t t.p (searchCap t) = walk P s s.p (searchCap s) := by
      funext fuel w
      rw [h.walk_eq, h.searchCap_eq, h.p]
    rw [hwalk]
    refine (walk_alike (h.searchEntry_alike hash) s s.scratch _ _ _).bind fun w v hwv => ?_
    obtain ⟨k, d, rfl⟩ := hwv
    exact ⟨h.setScratch _ _, rfl, rfl⟩
  · exact ⟨h.setScratch _ _, rfl, rfl⟩

theorem SameChoice.chooseToken_eq (h : SameChoice s t) : chooseToken t = chooseToken s := by
  simp only [chooseToken, h.bestLen, h.bestDist, h.p, h.readIn]

theorem SameMatcher.appendToken (h : SameMatcher s t) (tok : Token) :
    SameMatcher (appendToken tok s) (appendToken tok t) :=
  ⟨h.readIn, h.size, h.p, congrArg (· + 1) h.ntok, h.head, h.prev, by
    simp only [Machine.appendToken, h.tok, h.ntok]⟩

theorem SameMatcher.insertAt (h : SameMatcher s t) (pos : Nat) :
    EndAlike SameMatcher (insertAt P pos s) (insertAt P pos t) := by
  refine EndAlike.ite (by rw [h.size]) (EndAlike.ite Iff.rfl ?_ (Eq.refl _)) h
  rw [h.hash3_eq]
  refine EndAlike.bind_same fun hash => ⟨h.readIn, h.size, h.p, h.ntok, ?_, ?_, h.tok⟩
  · simp only [h.head]
  · simp only [h.prev, readHead, h.head]

theorem SameMatcher.insertFrom (h : SameMatcher s t) (n pos : Nat) :
    EndAlike SameMatcher (insertFrom P n pos s) (insertFrom P n pos t) := by
  induction n generalizing s t pos with
  | zero => exact h
  | succ n ih => exact (h.insertAt pos).bind fun _ _ hab => ih hab (pos + 1)

/-- A step from states that are the same to the matcher chooses the same token and leads to such states (R101). -/
theorem SameMatcher.matchStep (h : SameMatcher s t) :
    EndAlike SameMatcher (matchStep P s) (matchStep P t) := by
  refine h.search.bind fun a b hab => ?_
  rw [hab.chooseToken_eq]
  refine EndAlike.bind_same fun tok => ?_
  refine EndAlike.ite (by rw [hab.ntok]) ?_ ?_
  · rw [hab.p]
    refine ((hab.appendToken tok).insertFrom _ _).bind fun c d hcd => ?_
    exact ⟨hcd.readIn, hcd.size, congrArg (· + covers tok) hcd.p, hcd.ntok, hcd.head, hcd.prev, hcd.tok⟩
  · exact ⟨hab.readIn, hab.size, hab.p, hab.ntok, hab.head, hab.prev, hab.tok⟩

theorem SameMatcher.matchRun (h : SameMatcher s t) (n : Nat) :
    EndAlike SameMatcher (matchRun P n s) (matchRun P n t) := by
  induction n generalizing s t with
  | zero => exact h
  | succ n ih => exact EndAlike.ite (by rw [h.size, h.p]) (h.matchStep.bind fun _ _ hab => ih hab) h

theorem SameMatcher.enterEncode (h : SameMatcher s t) : SameMatcher s.enterEncode t.enterEncode :=
  ⟨h.readIn, h.size, h.p, h.ntok, h.head, h.prev, h.tok⟩

theorem SameMatcher.tokens_eq (h : SameMatcher s t) : t.tokens = s.tokens := by
  rw [State.tokens, h.ntok, tokensTo_congr (s := s) fun i _ => by rw [h.tok], ← State.tokens]

/-! Two runs. -/

/-- The bytes the host has written are what the run reads (R203). -/
theorem ReadyToStart.readIn_beginRun {S : List Byte} (h : ReadyToStart P s S) (i : Nat) :
    readIn s.beginRun i = if hi : i < S.length then .ok S[i] else .error (.outOfRange .input) := by
  rw [readIn, State.beginRun_size, h.inSize, State.beginRun_input]
  split
  · rename_i hi
    rw [← (inputTo_spec h.input).2 i hi, List.getElem?_eq_getElem hi]
  · rfl

/-- Runs on the same input begin the same to the matcher, whatever ran before (R201, R202). -/
theorem ReadyToStart.sameMatcher {S : List Byte} (h : ReadyToStart P s S) (h' : ReadyToStart P t S) :
    SameMatcher s.beginRun t.beginRun :=
  ⟨fun i => by rw [h.readIn_beginRun, h'.readIn_beginRun], h'.inSize.trans h.inSize.symm, rfl, rfl, rfl, rfl, rfl⟩

/-- The tokens fix the bytes of the block (R156). -/
theorem BlockWritten.outBytes_eq {s' t' : State} {ts : List Token} (h : BlockWritten s t ts)
    (h' : BlockWritten s' t' ts) : t.outBytes = t'.outBytes :=
  bitsOfBytes_injective (h.out.trans h'.out.symm)

end

/-- Settles O1: `RESET` and power-on lead to a reset state that differs in unspecified registers alone. -/
theorem resetEstablishesSpecValues : Obligations.ResetEstablishesSpecValues :=
  ⟨reset_values State.reset.scratch State.reset.free State.reset.inbox State.reset.rdata,
    fun s => ⟨s.resetCore, rfl, reset_values _ _ _ _⟩⟩

/-- Settles O55: the matcher ends the two runs with the same tokens, so they take the same number of steps and write the
same block. -/
theorem runsOfTheSameInputAgree : Obligations.RunsOfTheSameInputAgree := by
  intro s s' S h h'
  obtain ⟨v, t, ts, hmatch, -, hv, -, hrun, ht⟩ := h.runs
  obtain ⟨v', t', ts', hmatch', -, hv', -, hrun', ht'⟩ := h'.runs
  have hsame : SameMatcher v v' := by
    have halike := (h.sameMatcher h').matchRun (P := Config.params) S.length
    rw [hmatch, hmatch'] at halike
    exact halike
  have htokens : t.tokens = t'.tokens := by
    obtain ⟨-, -, hkept⟩ := ht.keeps
    obtain ⟨-, -, hkept'⟩ := ht'.keeps
    rw [hkept, hkept', hsame.enterEncode.tokens_eq]
  obtain rfl : ts' = ts := Option.some.inj (hv'.tokens.symm.trans (hsame.tokens_eq.trans hv.tokens))
  rw [hsame.ntok] at hrun'
  exact ⟨_, _, _, t, t', h.exec_start, h'.exec_start, hrun, hrun', by rw [ht.rest], by rw [ht'.rest],
    ht.outBytes_eq ht', htokens⟩

end Sys2Proof.Machine
end
